-- ==== Sys2Proof/Word.lean ====
section
/-! DEFINITION. The word types of the OGO 1.2 processor (spec 00_scope.md R1, R10). -/

namespace Sys2Proof

/-- A byte: registers, data, data addresses and instruction bytes are all 8 bits wide (R1, R64). -/
abbrev Byte := BitVec 8

/-- A program address, held in 16 bits; with a 10-bit PC the upper six bits are 0 (R5, R23). -/
abbrev ProgAddr := BitVec 16

/-- The number of an input/output port, the low four bits of a direct address (R7, R55). -/
abbrev Port := BitVec 4

end Sys2Proof
end

