-- ==== Sys2Proof/Syntax.lean ====
section
/-! DEFINITION. The instructions of the OGO 1.2 processor: one constructor per row of the opcode
table (spec 30_encoding.md R93, R105, R106). -/

namespace Sys2Proof

/-- The four work registers (10_state.md R20). -/
inductive Reg where
  | r0 | r1 | r2 | r3
deriving DecidableEq, Repr

/-- The two registers that can hold a data address, written @R0 and @R1 (10_state.md R22). -/
inductive Pointer where
  | r0 | r1
deriving DecidableEq, Repr

/-- The four status flags: carry, overflow, zero, sign (10_state.md R25). -/
inductive FlagName where
  | c | v | z | s
deriving DecidableEq, Repr

/-- The four test inputs (00_scope.md R8). -/
inductive TestPin where
  | t0 | t1 | t2 | t3
deriving DecidableEq, Repr

/-- The instructions. Operands stand in the order of the assembler notation (30_encoding.md R110):
destination first. -/
inductive Instr where
  -- MOV and NOP (40_mov.md)
  | nop
  | movRegReg (rd rs : Reg)
  | movRegInd (rd : Reg) (ri : Pointer)
  | movRegImm (rd : Reg) (imm : Byte)
  | movRegDir (rd : Reg) (dir : Byte)
  -- ANL (41_alu.md)
  | anlRegReg (rd rs : Reg)
  | anlRegInd (rd : Reg) (ri : Pointer)
  | anlRegImm (rd : Reg) (imm : Byte)
  | anlRegDir (rd : Reg) (dir : Byte)
  -- ADD (41_alu.md)
  | addRegReg (rd rs : Reg)
  | addRegInd (rd : Reg) (ri : Pointer)
  | addRegImm (rd : Reg) (imm : Byte)
  | addRegDir (rd : Reg) (dir : Byte)
  -- SUB (41_alu.md)
  | subRegReg (rd rs : Reg)
  | subRegInd (rd : Reg) (ri : Pointer)
  | subRegImm (rd : Reg) (imm : Byte)
  | subRegDir (rd : Reg) (dir : Byte)
  -- the two stores (40_mov.md)
  | movIndReg (ri : Pointer) (rs : Reg)
  | movDirReg (dir : Byte) (rs : Reg)
  -- control transfer (42_control.md)
  | jmp (adr10 : BitVec 10)
  | ljmp (adr16 : BitVec 16)
  | jf (flag : FlagName) (adr8 : Byte)
  | jt (flag : FlagName) (adr8 : Byte)
  | call (adr10 : BitVec 10)
  | lcall (adr16 : BitVec 16)
  | ret
  -- stack (43_stack.md)
  | push (rs : Reg)
  | pop (rd : Reg)
  -- one-register operations (44_unary.md)
  | inc (rd : Reg)
  | dec (rd : Reg)
  | srl (rd : Reg)
  | sra (rd : Reg)
  | rrc (rd : Reg)
  | cplReg (rd : Reg)
  -- flag operations (45_flags.md)
  | clr (flag : FlagName)
  | setb (flag : FlagName)
  | cplFlag (flag : FlagName)
  -- WAIT (46_wait.md)
  | wait (test : TestPin)
  -- the ten reserved rows of the table (30_encoding.md R106); the field holds the `x` bits
  | reserved1000 (x : BitVec 4)
  | reserved100110 (x : BitVec 2)
  | reserved101001 (x : BitVec 2)
  | reserved101101 (x : BitVec 2)
  | reserved10111001
  | reserved1011101 (x : BitVec 1)
  | reserved101111 (x : BitVec 2)
  | reserved111011 (x : BitVec 2)
  | reserved111101 (x : BitVec 2)
  | reserved11111 (x : BitVec 3)
deriving DecidableEq, Repr

end Sys2Proof
end

