-- ==== Sys2Proof/Config.lean ====
section
/-! DEFINITION. What a builder of an OGO 1.2 processor may choose (spec 00_scope.md R4), and the free
values that stand for the environment's answers (spec 60_exceptions.md R205). -/

namespace Sys2Proof

/-- The width of the program counter, `PCW` (00_scope.md R5). -/
inductive PcWidth where
  | bits10 | bits16
deriving DecidableEq, Repr

/-- The width as a number. -/
def PcWidth.bits : PcWidth → Nat
  | .bits10 => 10
  | .bits16 => 16

/-- The parameters that fix one build of the processor (00_scope.md R4). They are data of the state,
so that a statement about every state speaks of every build; no instruction changes them. -/
structure Build where
  /-- `PCW`. -/
  pcWidth : PcWidth
  /-- `PROG_SIZE`, the bytes of program memory that exist. -/
  progSize : Nat
  /-- `RAM_SIZE`, the bytes of data RAM that exist. -/
  ramSize : Nat
  /-- `HAS_LONG`: LJMP and LCALL are implemented. -/
  hasLong : Bool
deriving DecidableEq, Repr

/-- The ranges the spec gives the parameters (00_scope.md R4; 92_eei_decisions.md D1 to D3). -/
abbrev Build.wf (b : Build) : Prop :=
  1 ≤ b.progSize ∧ b.progSize ≤ 2 ^ b.pcWidth.bits ∧ 1 ≤ b.ramSize ∧ b.ramSize ≤ 256 ∧
    (b.hasLong = true → b.pcWidth = .bits16)

/-- The base processor with the spec's default values (00_scope.md R2, R4). -/
def Build.base : Build := ⟨.bits10, 1024, 256, false⟩

/-- The stretched processor, 16-bit PC with LJMP and LCALL, with the spec's defaults (R2, R4). -/
def Build.stretched : Build := ⟨.bits16, 65536, 256, true⟩

/-- One action on the input/output bus, as the model records it (20_memory.md R60, R61). -/
inductive IoEvent where
  /-- A read action at a port, with the byte the environment answered. -/
  | read (port : Port) (value : Byte)
  /-- A write action at a port, with the byte the processor drove. -/
  | write (port : Port) (value : Byte)
deriving DecidableEq, Repr

/-- FREE VALUE. The byte the environment puts on the data input bus in a read action at a port. It may
depend on the whole history of actions and on how often the test inputs were sampled, which
together tell any two questions of a run apart (R60, R205; U8; log 14). -/
opaque Config.ioByte : List IoEvent → Nat → Port → Byte

/-- FREE VALUE. The level of a test input at a sampling; the arguments are as for `Config.ioByte`
(10_state.md R33; 46_wait.md R187; log 15). -/
opaque Config.testLevel : List IoEvent → Nat → TestPin → Bool

end Sys2Proof
end

