-- ==== Sys2Proof/Machine/State.lean ====
section
/-! DEFINITION. The state of the machine, the reasons it can stop, and the state after start-up
(spec 10_state.md; 60_exceptions.md R193, R205). -/

namespace Sys2Proof.Machine

/-- A memory: the listed bytes, addresses strictly rising, none equal to what an unlisted address
reads as (`Memory.unlisted` in Machine/Memory.lean). -/
abbrev Memory := List Host.Cell

/-- The faults of the model (60_exceptions.md R193). None is an event of the hardware: each marks a
point the source leaves undefined, at which the model stops. Each is SAFE: a build may go on
where the model stops, and no claim about what follows can be proved. -/
inductive Fault where
  /-- An instruction byte is fetched at an address at or above `PROG_SIZE` (20_memory.md R72).
  Raised by the fetch. Safe. -/
  | fetchOutsideProgram (a : ProgAddr)
  /-- The first byte is reserved (30_encoding.md R106, R107). Raised by the ten reserved rows, and by
  LJMP and LCALL in a build without them. Safe. -/
  | reservedOpcode (b1 : Byte)
  /-- A direct access to 0F0h..0FDh (20_memory.md R63). Raised by the five `dir` instructions. Safe. -/
  | reservedDirect (a : Byte)
  /-- A RAM access at or above `RAM_SIZE` (20_memory.md R72). Raised by direct, indirect and stack
  accesses. Safe. -/
  | outsideRam (a : Byte)
deriving DecidableEq, Repr

/-- The reasons to refuse an instruction. -/
inductive Refusal where
  /-- The instruction has no meaning yet. Raised by `exec` alone, and by no arm of this model. Safe. -/
  | notModelled (mnemonic : String)
deriving DecidableEq, Repr

/-- The machine. The processor's state proper is `r0`..`r3`, `pc`, `psw`, `sp` and `ram`
(10_state.md R36) and the WAIT it is held in; `build` and `prog` are constants of a run; the last
four fields are the environment's side of the channels of 60_exceptions.md R205. -/
structure State where
  /-- The parameters of the build (00_scope.md R4). -/
  build : Build
  /-- `PROG`, the contents of the program ROM (10_state.md R31). -/
  prog : Memory
  /-- Work register R0 (R20). -/
  r0 : Byte
  /-- Work register R1 (R20). -/
  r1 : Byte
  /-- Work register R2 (R20). -/
  r2 : Byte
  /-- Work register R3 (R20). -/
  r3 : Byte
  /-- The program counter (R23), in 16 bits; every write cuts it to `PCW` bits. -/
  pc : ProgAddr
  /-- The program status word (R25): C, V, Z, S in bits 0..3, stored reserved bits 4..7. -/
  psw : Byte
  /-- The stack pointer (R29). -/
  sp : Byte
  /-- The data RAM (R32). -/
  ram : Memory
  /-- The test input of a WAIT that is not complete, if the processor is held in one
  (46_wait.md R185, R187; 70_reset_and_hazards.md R220). -/
  waiting : Option TestPin
  /-- The environment's next answers to read actions, the next one first (log 14). -/
  ioAnswers : List Byte
  /-- The environment's next answers to samplings of a test input (log 15). -/
  testAnswers : List Bool
  /-- How many samplings of a test input there have been (log 15). -/
  samples : Nat
  /-- The actions on the input/output bus so far, the oldest first (20_memory.md R60, R61). -/
  trace : List IoEvent
deriving DecidableEq, Repr

/-- A state right after start-up (10_state.md R37, R220): `pc` and `psw` are 0, no WAIT is pending and
no action has happened; everything the spec leaves unspecified is an argument. -/
def State.startUp (build : Build) (prog : Memory) (r0 r1 r2 r3 sp : Byte) (ram : Memory)
    (ioAnswers : List Byte) (testAnswers : List Bool) : State :=
  { build, prog, r0, r1, r2, r3, pc := 0, psw := 0, sp, ram, waiting := none, ioAnswers,
    testAnswers, samples := 0, trace := [] }

/-- The machine right after reset: the base build, with the values of logs 1 to 5 where the spec
gives none. -/
def State.reset : State :=
  State.startUp Build.base [] 0 0 0 0 0 [] [] []

end Sys2Proof.Machine
end

