-- ==== Sys2Proof/Machine/Flags.lean ====
section
/-! DEFINITION. The flags and the arithmetic laws (spec 10_state.md R25 to R28; 41_alu.md R131 to R133;
44_unary.md R170 to R175). The meaning of "op de standaard manier" is the spec's decision D11,
partly from general knowledge (log 13: PRESUMED). -/

namespace Sys2Proof.Machine

/-- The position of a flag in the PSW (R25). -/
def flagPos : FlagName → Nat
  | .c => 0
  | .v => 1
  | .z => 2
  | .s => 3

/-- A byte with the bit at `pos` replaced and the seven others kept (00_scope.md R13). -/
def putBit (w : Byte) (pos : Nat) (b : Bool) : Byte :=
  if b then w ||| (1#8 <<< pos) else w &&& ~~~(1#8 <<< pos)

/-- The value of a flag (R102). -/
def State.flag (s : State) (f : FlagName) : Bool := s.psw.getLsbD (flagPos f)

/-- Write one flag; the other seven PSW bits stay (00_scope.md R13, R26). -/
def State.setFlag (s : State) (f : FlagName) (b : Bool) : State :=
  { s with psw := putBit s.psw (flagPos f) b }

/-- A result with the four flags computed from it. -/
structure AluOut where
  value : Byte
  c : Bool
  v : Bool
  z : Bool
  s : Bool
deriving DecidableEq, Repr

/-- The law of ADD (R131). -/
def addLaw (a b : Byte) : AluOut :=
  let t := a.toNat + b.toNat
  let r := BitVec.ofNat 8 t
  { value := r
    c := decide (256 ≤ t)
    v := a.msb == b.msb && r.msb != a.msb
    z := r == 0
    s := r.msb }

/-- The law of SUB, with C as borrow (R132). -/
def subLaw (a b : Byte) : AluOut :=
  let r := a - b
  { value := r
    c := decide (a.toNat < b.toNat)
    v := a.msb != b.msb && r.msb != a.msb
    z := r == 0
    s := r.msb }

/-- The result of ANL (R133). -/
def anlValue (a b : Byte) : Byte := a &&& b

/-- All four flags from a result: ADD and SUB (R28). -/
def State.setCVZS (s : State) (o : AluOut) : State :=
  (((s.setFlag .c o.c).setFlag .v o.v).setFlag .z o.z).setFlag .s o.s

/-- Z and S from a result: ANL (R28, R133). -/
def State.setZS (s : State) (r : Byte) : State :=
  (s.setFlag .z (r == 0)).setFlag .s r.msb

/-- Z from a result: INC and DEC (R28, R170, R171). -/
def State.setZ (s : State) (r : Byte) : State := s.setFlag .z (r == 0)

/-- One place to the right, `top` into bit 7 (R172 to R174). -/
def shiftRightIn (top : Bool) (a : Byte) : Byte := BitVec.ofBool top ++ a.extractLsb' 1 7

end Sys2Proof.Machine
end

