-- ==== Sys2Proof/Machine/Ops.lean ====
section
/-! DEFINITION. The named operations over registers, memory and the environment (spec 00_scope.md R13;
20_memory.md R51 to R61; 43_stack.md; 46_wait.md). An operation that can fault answers in
`Except Fault`. The processor has no exceptions (60_exceptions.md R190 to R192), so there is no
operation that takes one. -/

namespace Sys2Proof.Machine

/-- A meaning's answer from an operation's: the next state or the fault. -/
def finish (r : Except Fault State) : Host.Outcome State Fault Refusal :=
  match r with
  | .ok s => .next s
  | .error f => .fault f

/-! Registers -/

/-- `x[i]` (R13, R20). -/
def State.reg (s : State) : Reg → Byte
  | .r0 => s.r0
  | .r1 => s.r1
  | .r2 => s.r2
  | .r3 => s.r3

/-- `x[i] <- v` (R13, R20). -/
def State.setReg (s : State) (r : Reg) (v : Byte) : State :=
  match r with
  | .r0 => { s with r0 := v }
  | .r1 => { s with r1 := v }
  | .r2 => { s with r2 := v }
  | .r3 => { s with r3 := v }

/-- The address a pointer register holds (10_state.md R22). -/
def State.pointer (s : State) : Pointer → Byte
  | .r0 => s.r0
  | .r1 => s.r1

/-- `sp <- v`. -/
def State.setSp (s : State) (v : Byte) : State := { s with sp := v }

/-- `psw <- v`, all eight bits (10_state.md R26). -/
def State.setPsw (s : State) (v : Byte) : State := { s with psw := v }

/-- An address cut to `PCW` bits (R13). -/
def cutPc (w : PcWidth) (a : ProgAddr) : ProgAddr :=
  match w with
  | .bits10 => (a.setWidth 10).setWidth 16
  | .bits16 => a

/-- `pc <- a`, cut to `PCW` bits (log 6). -/
def State.setPc (s : State) (a : ProgAddr) : State := { s with pc := cutPc s.build.pcWidth a }

/-- The address after `a`, modulo 2^PCW (10_state.md R24; D4). -/
def State.nextAddr (s : State) (a : ProgAddr) : ProgAddr := cutPc s.build.pcWidth (a + 1)

/-- `pc[7:0]`, the byte of a return address pushed first (20_memory.md R64). -/
def State.pcLow (s : State) : Byte := s.pc.extractLsb' 0 8

/-- `zext_8(pc[PCW-1:8])`, the byte pushed second (42_control.md R155). -/
def State.pcHigh (s : State) : Byte :=
  match s.build.pcWidth with
  | .bits10 => 0#6 ++ s.pc.extractLsb' 8 2
  | .bits16 => s.pc.extractLsb' 8 8

/-! Program memory and data RAM -/

/-- `ProgRead(a)` (20_memory.md R51, R72). -/
def State.progRead (s : State) (a : ProgAddr) : Except Fault Byte :=
  if a.toNat < s.build.progSize then .ok (s.prog.read a.toNat) else .error (.fetchOutsideProgram a)

/-- The byte of data RAM at an address, whether or not the build has it. -/
def State.ramByte (s : State) (a : Byte) : Byte := s.ram.read a.toNat

/-- `MemRead(a, 1)`: RAM only, at every address (20_memory.md R53, R58, R72). -/
def State.memRead (s : State) (a : Byte) : Except Fault Byte :=
  if a.toNat < s.build.ramSize then .ok (s.ramByte a) else .error (.outsideRam a)

/-- `MemWrite(a, 1, v)`: RAM only, at every address (20_memory.md R53, R58, R72). -/
def State.memWrite (s : State) (a v : Byte) : Except Fault State :=
  if a.toNat < s.build.ramSize then .ok { s with ram := s.ram.write a.toNat v }
  else .error (.outsideRam a)

/-! The environment -/

/-- The byte the environment answers to the next read action at a port: the one it has ready, else a
free value (20_memory.md R60; log 14). -/
def State.ioAnswer (s : State) (p : Port) : Byte :=
  match s.ioAnswers with
  | v :: _ => v
  | [] => Config.ioByte s.trace s.samples p

/-- `IORead(p)`: one read action, recorded with the byte answered (20_memory.md R60). -/
def State.ioRead (s : State) (p : Port) : Byte × State :=
  (s.ioAnswer p,
    { s with ioAnswers := s.ioAnswers.tail, trace := s.trace ++ [.read p (s.ioAnswer p)] })

/-- `IOWrite(p, v)`: one write action, recorded; the processor's state stays (20_memory.md R61). -/
def State.ioWrite (s : State) (p : Port) (v : Byte) : State :=
  { s with trace := s.trace ++ [.write p v] }

/-- The level the environment gives a test input at the next sampling: the one it has ready, else a
free value (10_state.md R33; log 15). -/
def State.testAnswer (s : State) (t : TestPin) : Bool :=
  match s.testAnswers with
  | b :: _ => b
  | [] => Config.testLevel s.trace s.samples t

/-- One sampling of test input `t` by a WAIT: at level 1 the WAIT is complete, at level 0 the
processor is held in it (46_wait.md R185 to R187; log 16). -/
def State.sampleWait (s : State) (t : TestPin) : State :=
  { s with
    waiting := if s.testAnswer t then none else some t
    testAnswers := s.testAnswers.tail
    samples := s.samples + 1 }

/-! Direct addresses -/

/-- The port a direct address 0E0h..0EFh selects (20_memory.md R55, R59). -/
def portOf (a : Byte) : Port := a.extractLsb' 0 4

/-- `DirRead(a)` (20_memory.md R56, R63). -/
def State.dirRead (s : State) (a : Byte) : Except Fault (Byte × State) :=
  if a.toNat ≤ 0xDF then
    match s.memRead a with
    | .ok v => .ok (v, s)
    | .error f => .error f
  else if a.toNat ≤ 0xEF then .ok (s.ioRead (portOf a))
  else if a.toNat ≤ 0xFD then .error (.reservedDirect a)
  else if a.toNat = 0xFE then .ok (s.sp, s)
  else .ok (s.psw, s)

/-- `DirWrite(a, v)` (20_memory.md R57, R63). -/
def State.dirWrite (s : State) (a v : Byte) : Except Fault State :=
  if a.toNat ≤ 0xDF then s.memWrite a v
  else if a.toNat ≤ 0xEF then .ok (s.ioWrite (portOf a) v)
  else if a.toNat ≤ 0xFD then .error (.reservedDirect a)
  else if a.toNat = 0xFE then .ok (s.setSp v)
  else .ok (s.setPsw v)

/-! The stack -/

/-- Push one byte: raise SP, then store where it points (10_state.md R29; 43_stack.md R165). -/
def State.pushByte (s : State) (v : Byte) : Except Fault State :=
  (s.setSp (s.sp + 1)).memWrite (s.sp + 1) v

/-- Pop one byte: load where SP points, then lower it (10_state.md R29; 43_stack.md R166). -/
def State.popByte (s : State) : Except Fault (Byte × State) :=
  match s.memRead s.sp with
  | .ok v => .ok (v, s.setSp (s.sp - 1))
  | .error f => .error f

/-- Push the PC as a return address, low byte first (42_control.md R155, R156; 20_memory.md R64). -/
def State.pushPc (s : State) : Except Fault State :=
  match s.pushByte s.pcLow with
  | .ok s1 => s1.pushByte s.pcHigh
  | .error f => .error f

/-! The program counter's pages -/

/-- `pc[7:0] <- a`: the 256-byte page of the next instruction (30_encoding.md R99). -/
def State.jumpPage8 (s : State) (a : Byte) : State := s.setPc (s.pc.extractLsb' 8 8 ++ a)

/-- `pc[9:0] <- a`: the 1 KiB page of the next instruction (30_encoding.md R100). -/
def State.jumpPage10 (s : State) (a : BitVec 10) : State := s.setPc (s.pc.extractLsb' 10 6 ++ a)

end Sys2Proof.Machine
end

