-- ==== Sys2Proof/Machine/Operands.lean ====
section
/-! DEFINITION. The four forms of a second operand (spec 41_alu.md R130; 20_memory.md R54). Each reads
its byte once and answers it with the state after the read, which only a read action changes. -/

namespace Sys2Proof.Machine

/-- A source operand: a byte, and the state after reading it. -/
abbrev Source := State → Except Fault (Byte × State)

/-- `Rs` (30_encoding.md R95). -/
def srcReg (rs : Reg) : Source := fun s => .ok (s.reg rs, s)

/-- `@Ri`: the RAM byte the pointer register addresses (30_encoding.md R96; 20_memory.md R58). -/
def srcInd (ri : Pointer) : Source := fun s =>
  match s.memRead (s.pointer ri) with
  | .ok v => .ok (v, s)
  | .error f => .error f

/-- `#imm` (30_encoding.md R98). -/
def srcImm (imm : Byte) : Source := fun s => .ok (imm, s)

/-- `dir` (30_encoding.md R97; 20_memory.md R56). -/
def srcDir (dir : Byte) : Source := fun s => s.dirRead dir

/-- `x[d] <- b` (40_mov.md R120). -/
def moveInto (rd : Reg) (src : Source) (s : State) : Except Fault State :=
  match src s with
  | .ok (b, s1) => .ok (s1.setReg rd b)
  | .error f => .error f

/-- `x[d] <- x[d] & b`, with Z and S (41_alu.md R130, R133). -/
def anlInto (rd : Reg) (src : Source) (s : State) : Except Fault State :=
  match src s with
  | .ok (b, s1) =>
    .ok ((s1.setReg rd (anlValue (s.reg rd) b)).setZS (anlValue (s.reg rd) b))
  | .error f => .error f

/-- `x[d] <- x[d] op b` with all four flags: ADD and SUB (41_alu.md R130 to R132). -/
def arithInto (law : Byte → Byte → AluOut) (rd : Reg) (src : Source) (s : State) :
    Except Fault State :=
  match src s with
  | .ok (b, s1) =>
    .ok ((s1.setReg rd (law (s.reg rd) b).value).setCVZS (law (s.reg rd) b))
  | .error f => .error f

end Sys2Proof.Machine
end

