-- ==== Sys2Proof/Machine/Alu.lean ====
section
/-! DEFINITION. ANL, ADD and SUB, each in four operand forms (spec 41_alu.md). -/

namespace Sys2Proof.Machine

/-- `ANL Rd,Rs` (R134). -/
def execAnlRegReg (rd rs : Reg) (s : State) : Host.Outcome State Fault Refusal :=
  finish (anlInto rd (srcReg rs) s)

/-- `ANL Rd,@Ri` (R135). -/
def execAnlRegInd (rd : Reg) (ri : Pointer) (s : State) : Host.Outcome State Fault Refusal :=
  finish (anlInto rd (srcInd ri) s)

/-- `ANL Rd,#imm` (R136). -/
def execAnlRegImm (rd : Reg) (imm : Byte) (s : State) : Host.Outcome State Fault Refusal :=
  finish (anlInto rd (srcImm imm) s)

/-- `ANL Rd,dir` (R137). -/
def execAnlRegDir (rd : Reg) (dir : Byte) (s : State) : Host.Outcome State Fault Refusal :=
  finish (anlInto rd (srcDir dir) s)

/-- `ADD Rd,Rs` (R138). -/
def execAddRegReg (rd rs : Reg) (s : State) : Host.Outcome State Fault Refusal :=
  finish (arithInto addLaw rd (srcReg rs) s)

/-- `ADD Rd,@Ri` (R139). -/
def execAddRegInd (rd : Reg) (ri : Pointer) (s : State) : Host.Outcome State Fault Refusal :=
  finish (arithInto addLaw rd (srcInd ri) s)

/-- `ADD Rd,#imm` (R140). -/
def execAddRegImm (rd : Reg) (imm : Byte) (s : State) : Host.Outcome State Fault Refusal :=
  finish (arithInto addLaw rd (srcImm imm) s)

/-- `ADD Rd,dir` (R141). -/
def execAddRegDir (rd : Reg) (dir : Byte) (s : State) : Host.Outcome State Fault Refusal :=
  finish (arithInto addLaw rd (srcDir dir) s)

/-- `SUB Rd,Rs` (R142). -/
def execSubRegReg (rd rs : Reg) (s : State) : Host.Outcome State Fault Refusal :=
  finish (arithInto subLaw rd (srcReg rs) s)

/-- `SUB Rd,@Ri` (R143). -/
def execSubRegInd (rd : Reg) (ri : Pointer) (s : State) : Host.Outcome State Fault Refusal :=
  finish (arithInto subLaw rd (srcInd ri) s)

/-- `SUB Rd,#imm` (R144). -/
def execSubRegImm (rd : Reg) (imm : Byte) (s : State) : Host.Outcome State Fault Refusal :=
  finish (arithInto subLaw rd (srcImm imm) s)

/-- `SUB Rd,dir` (R145). -/
def execSubRegDir (rd : Reg) (dir : Byte) (s : State) : Host.Outcome State Fault Refusal :=
  finish (arithInto subLaw rd (srcDir dir) s)

end Sys2Proof.Machine
end

