-- ==== Sys2Proof/Machine/Control.lean ====
section
/-! DEFINITION. Control transfer (spec 42_control.md). `pc` already points at the next instruction, so
pages and return addresses are taken from it (R150, R159). -/

namespace Sys2Proof.Machine

/-- `JMP adr10` (R151). -/
def execJmp (a : BitVec 10) (s : State) : Host.Outcome State Fault Refusal :=
  .next (s.jumpPage10 a)

/-- `LJMP adr16` (R152); without `HAS_LONG` its first byte is reserved (30_encoding.md R107, R108). -/
def execLjmp (a : BitVec 16) (s : State) : Host.Outcome State Fault Refusal :=
  if s.build.hasLong then .next (s.setPc a) else .fault (.reservedOpcode 0xA4)

/-- `JF flag,adr8` (R153). -/
def execJf (f : FlagName) (a : Byte) (s : State) : Host.Outcome State Fault Refusal :=
  .next (if s.flag f then s else s.jumpPage8 a)

/-- `JT flag,adr8` (R154). -/
def execJt (f : FlagName) (a : Byte) (s : State) : Host.Outcome State Fault Refusal :=
  .next (if s.flag f then s.jumpPage8 a else s)

/-- `CALL adr10` (R155). -/
def execCall (a : BitVec 10) (s : State) : Host.Outcome State Fault Refusal :=
  match s.pushPc with
  | .ok s1 => .next (s1.jumpPage10 a)
  | .error f => .fault f

/-- `LCALL adr16` (R156); without `HAS_LONG` its first byte is reserved (30_encoding.md R107, R108). -/
def execLcall (a : BitVec 16) (s : State) : Host.Outcome State Fault Refusal :=
  if s.build.hasLong then
    match s.pushPc with
    | .ok s1 => .next (s1.setPc a)
    | .error f => .fault f
  else .fault (.reservedOpcode 0xB4)

/-- `RET` (R157): high byte first; bits that do not fit the PC are dropped (D8, log 12). -/
def execRet (s : State) : Host.Outcome State Fault Refusal :=
  match s.popByte with
  | .ok (hi, s1) =>
    match s1.popByte with
    | .ok (lo, s2) => .next (s2.setPc (hi ++ lo))
    | .error f => .fault f
  | .error f => .fault f

end Sys2Proof.Machine
end

