-- ==== Sys2Proof/Machine/FlagOps.lean ====
section
/-! DEFINITION. CLR, SETB and CPL of a flag (spec 45_flags.md). -/

namespace Sys2Proof.Machine

/-- `CLR flag` (R180). -/
def execClr (f : FlagName) (s : State) : Host.Outcome State Fault Refusal :=
  .next (s.setFlag f false)

/-- `SETB flag` (R181). -/
def execSetb (f : FlagName) (s : State) : Host.Outcome State Fault Refusal :=
  .next (s.setFlag f true)

/-- `CPL flag` (R182). -/
def execCplFlag (f : FlagName) (s : State) : Host.Outcome State Fault Refusal :=
  .next (s.setFlag f (!s.flag f))

end Sys2Proof.Machine
end

