-- ==== Sys2Proof/Machine/Mov.lean ====
section
/-! DEFINITION. MOV in its six forms, and NOP (spec 40_mov.md). `pc` already points at the next
instruction (00_scope.md R14). -/

namespace Sys2Proof.Machine

/-- NOP, the name of `MOV R0,R0` (R127). -/
def execNop (s : State) : Host.Outcome State Fault Refusal :=
  finish (moveInto .r0 (srcReg .r0) s)

/-- `MOV Rd,Rs` (R121). -/
def execMovRegReg (rd rs : Reg) (s : State) : Host.Outcome State Fault Refusal :=
  finish (moveInto rd (srcReg rs) s)

/-- `MOV Rd,@Ri` (R122). -/
def execMovRegInd (rd : Reg) (ri : Pointer) (s : State) : Host.Outcome State Fault Refusal :=
  finish (moveInto rd (srcInd ri) s)

/-- `MOV Rd,#imm` (R123). -/
def execMovRegImm (rd : Reg) (imm : Byte) (s : State) : Host.Outcome State Fault Refusal :=
  finish (moveInto rd (srcImm imm) s)

/-- `MOV Rd,dir` (R124). -/
def execMovRegDir (rd : Reg) (dir : Byte) (s : State) : Host.Outcome State Fault Refusal :=
  finish (moveInto rd (srcDir dir) s)

/-- `MOV @Ri,Rs` (R125). -/
def execMovIndReg (ri : Pointer) (rs : Reg) (s : State) : Host.Outcome State Fault Refusal :=
  finish (s.memWrite (s.pointer ri) (s.reg rs))

/-- `MOV dir,Rs` (R126). -/
def execMovDirReg (dir : Byte) (rs : Reg) (s : State) : Host.Outcome State Fault Refusal :=
  finish (s.dirWrite dir (s.reg rs))

end Sys2Proof.Machine
end

