-- ==== Sys2Proof/Machine/Reserved.lean ====
section
/-! DEFINITION. The ten reserved groups of first bytes (spec 30_encoding.md R106, R107; log 8). The
source gives them no behaviour at all; each stops the model with the fault of R193. -/

namespace Sys2Proof.Machine

/-- The stop at a reserved first byte (R107). -/
def reservedStop (b1 : Byte) : Host.Outcome State Fault Refusal := .fault (.reservedOpcode b1)

/-- First bytes 80h..8Fh. -/
def execReserved1000 (x : BitVec 4) (_s : State) : Host.Outcome State Fault Refusal :=
  reservedStop (0b1000#4 ++ x)

/-- First bytes 98h..9Bh (90_conflicts.md C1). -/
def execReserved100110 (x : BitVec 2) (_s : State) : Host.Outcome State Fault Refusal :=
  reservedStop (0b100110#6 ++ x)

/-- First bytes A5h..A7h, and A4h in a build without LJMP. -/
def execReserved101001 (x : BitVec 2) (_s : State) : Host.Outcome State Fault Refusal :=
  reservedStop (0b101001#6 ++ x)

/-- First bytes B5h..B7h, and B4h in a build without LCALL. -/
def execReserved101101 (x : BitVec 2) (_s : State) : Host.Outcome State Fault Refusal :=
  reservedStop (0b101101#6 ++ x)

/-- First byte B9h. -/
def execReserved10111001 (_s : State) : Host.Outcome State Fault Refusal :=
  reservedStop 0b10111001

/-- First bytes BAh and BBh. -/
def execReserved1011101 (x : BitVec 1) (_s : State) : Host.Outcome State Fault Refusal :=
  reservedStop (0b1011101#7 ++ x)

/-- First bytes BCh..BFh. -/
def execReserved101111 (x : BitVec 2) (_s : State) : Host.Outcome State Fault Refusal :=
  reservedStop (0b101111#6 ++ x)

/-- First bytes ECh..EFh. -/
def execReserved111011 (x : BitVec 2) (_s : State) : Host.Outcome State Fault Refusal :=
  reservedStop (0b111011#6 ++ x)

/-- First bytes F4h..F7h. -/
def execReserved111101 (x : BitVec 2) (_s : State) : Host.Outcome State Fault Refusal :=
  reservedStop (0b111101#6 ++ x)

/-- First bytes F8h..FFh. -/
def execReserved11111 (x : BitVec 3) (_s : State) : Host.Outcome State Fault Refusal :=
  reservedStop (0b11111#5 ++ x)

end Sys2Proof.Machine
end

