-- ==== Sys2Proof/Machine/Stack.lean ====
section
/-! DEFINITION. PUSH and POP (spec 43_stack.md). -/

namespace Sys2Proof.Machine

/-- `PUSH Rs` (R165). -/
def execPush (rs : Reg) (s : State) : Host.Outcome State Fault Refusal :=
  finish (s.pushByte (s.reg rs))

/-- `POP Rd` (R166). -/
def execPop (rd : Reg) (s : State) : Host.Outcome State Fault Refusal :=
  finish (moveInto rd State.popByte s)

end Sys2Proof.Machine
end

