-- ==== Sys2Proof/Machine/Unary.lean ====
section
/-! DEFINITION. INC, DEC, SRL, SRA, RRC and CPL of a register (spec 44_unary.md). -/

namespace Sys2Proof.Machine

/-- `x[d] <- r`, with Z alone (R170, R171). -/
def State.putZ (s : State) (rd : Reg) (r : Byte) : State := (s.setReg rd r).setZ r

/-- Shift `x[d]` one place right, `top` into bit 7 and the old bit 0 into C (R172 to R174). -/
def State.shiftRight (s : State) (rd : Reg) (top : Bool) : State :=
  (s.setReg rd (shiftRightIn top (s.reg rd))).setFlag .c ((s.reg rd).getLsbD 0)

/-- `INC Rd` (R170). -/
def execInc (rd : Reg) (s : State) : Host.Outcome State Fault Refusal :=
  .next (s.putZ rd (s.reg rd + 1))

/-- `DEC Rd` (R171). -/
def execDec (rd : Reg) (s : State) : Host.Outcome State Fault Refusal :=
  .next (s.putZ rd (s.reg rd - 1))

/-- `SRL Rd` (R172). -/
def execSrl (rd : Reg) (s : State) : Host.Outcome State Fault Refusal :=
  .next (s.shiftRight rd false)

/-- `SRA Rd` (R173): bit 7 keeps its value (90_conflicts.md C7). -/
def execSra (rd : Reg) (s : State) : Host.Outcome State Fault Refusal :=
  .next (s.shiftRight rd (s.reg rd).msb)

/-- `RRC Rd` (R174): bit 7 receives the old carry. -/
def execRrc (rd : Reg) (s : State) : Host.Outcome State Fault Refusal :=
  .next (s.shiftRight rd (s.flag .c))

/-- `CPL Rd` (R175). -/
def execCplReg (rd : Reg) (s : State) : Host.Outcome State Fault Refusal :=
  .next (s.setReg rd (~~~ s.reg rd))

end Sys2Proof.Machine
end

