-- ==== Sys2Proof/Machine/Wait.lean ====
section
/-! DEFINITION. WAIT, and the step of a processor that is held in one (spec 46_wait.md). -/

namespace Sys2Proof.Machine

/-- `WAIT test` (R185): the first sampling; at level 0 the processor is held, with `pc` already at the
next instruction. -/
def execWait (t : TestPin) (s : State) : Host.Outcome State Fault Refusal :=
  .next (s.sampleWait t)

/-- A step of a processor held in `WAIT t`: it asks again (R187). -/
def heldStep (t : TestPin) (s : State) : Host.Outcome State Fault Refusal :=
  .next (s.sampleWait t)

end Sys2Proof.Machine
end

