-- ==== Sys2Proof/Machine/Dispatch.lean ====
section
/-! DEFINITION. The meaning of every instruction, in a state whose `pc` already points at the next
instruction (spec 00_scope.md R14). -/

namespace Sys2Proof.Machine

def exec (i : Instr) (s : State) : Host.Outcome State Fault Refusal :=
  match i with
  | .nop => Sys2Proof.Machine.execNop s
  | .movRegReg rd rs => Sys2Proof.Machine.execMovRegReg rd rs s
  | .movRegInd rd ri => Sys2Proof.Machine.execMovRegInd rd ri s
  | .movRegImm rd imm => Sys2Proof.Machine.execMovRegImm rd imm s
  | .movRegDir rd dir => Sys2Proof.Machine.execMovRegDir rd dir s
  | .anlRegReg rd rs => Sys2Proof.Machine.execAnlRegReg rd rs s
  | .anlRegInd rd ri => Sys2Proof.Machine.execAnlRegInd rd ri s
  | .anlRegImm rd imm => Sys2Proof.Machine.execAnlRegImm rd imm s
  | .anlRegDir rd dir => Sys2Proof.Machine.execAnlRegDir rd dir s
  | .addRegReg rd rs => Sys2Proof.Machine.execAddRegReg rd rs s
  | .addRegInd rd ri => Sys2Proof.Machine.execAddRegInd rd ri s
  | .addRegImm rd imm => Sys2Proof.Machine.execAddRegImm rd imm s
  | .addRegDir rd dir => Sys2Proof.Machine.execAddRegDir rd dir s
  | .subRegReg rd rs => Sys2Proof.Machine.execSubRegReg rd rs s
  | .subRegInd rd ri => Sys2Proof.Machine.execSubRegInd rd ri s
  | .subRegImm rd imm => Sys2Proof.Machine.execSubRegImm rd imm s
  | .subRegDir rd dir => Sys2Proof.Machine.execSubRegDir rd dir s
  | .movIndReg ri rs => Sys2Proof.Machine.execMovIndReg ri rs s
  | .movDirReg dir rs => Sys2Proof.Machine.execMovDirReg dir rs s
  | .jmp a => Sys2Proof.Machine.execJmp a s
  | .ljmp a => Sys2Proof.Machine.execLjmp a s
  | .jf f a => Sys2Proof.Machine.execJf f a s
  | .jt f a => Sys2Proof.Machine.execJt f a s
  | .call a => Sys2Proof.Machine.execCall a s
  | .lcall a => Sys2Proof.Machine.execLcall a s
  | .ret => Sys2Proof.Machine.execRet s
  | .push rs => Sys2Proof.Machine.execPush rs s
  | .pop rd => Sys2Proof.Machine.execPop rd s
  | .inc rd => Sys2Proof.Machine.execInc rd s
  | .dec rd => Sys2Proof.Machine.execDec rd s
  | .srl rd => Sys2Proof.Machine.execSrl rd s
  | .sra rd => Sys2Proof.Machine.execSra rd s
  | .rrc rd => Sys2Proof.Machine.execRrc rd s
  | .cplReg rd => Sys2Proof.Machine.execCplReg rd s
  | .clr f => Sys2Proof.Machine.execClr f s
  | .setb f => Sys2Proof.Machine.execSetb f s
  | .cplFlag f => Sys2Proof.Machine.execCplFlag f s
  | .wait t => Sys2Proof.Machine.execWait t s
  | .reserved1000 x => Sys2Proof.Machine.execReserved1000 x s
  | .reserved100110 x => Sys2Proof.Machine.execReserved100110 x s
  | .reserved101001 x => Sys2Proof.Machine.execReserved101001 x s
  | .reserved101101 x => Sys2Proof.Machine.execReserved101101 x s
  | .reserved10111001 => Sys2Proof.Machine.execReserved10111001 s
  | .reserved1011101 x => Sys2Proof.Machine.execReserved1011101 x s
  | .reserved101111 x => Sys2Proof.Machine.execReserved101111 x s
  | .reserved111011 x => Sys2Proof.Machine.execReserved111011 x s
  | .reserved111101 x => Sys2Proof.Machine.execReserved111101 x s
  | .reserved11111 x => Sys2Proof.Machine.execReserved11111 x s

end Sys2Proof.Machine
end

