-- ==== Sys2Proof/WellFormed.lean ====
section
/-! DEFINITION. Which terms of `Instr` are instructions of a build: `hasLong` says whether the build
has LJMP and LCALL (spec 30_encoding.md R106, R108). -/

namespace Sys2Proof

/-- A term is well-formed when it is the one term that stands for its words.
`MOV R0,R0` is written `nop` (R113, R127; log 22); LJMP and LCALL exist only in a build that has
them (R108); their first bytes A4h and B4h are reserved only in a build that has not (R106). -/
def Instr.wf (hasLong : Bool) (i : Instr) : Bool :=
  match i with
  | .movRegReg rd rs => !(rd == .r0 && rs == .r0)
  | .ljmp _ => hasLong
  | .lcall _ => hasLong
  | .reserved101001 x => !(hasLong && x == 0)
  | .reserved101101 x => !(hasLong && x == 0)
  | .nop => true
  | .movRegInd _ _ => true
  | .movRegImm _ _ => true
  | .movRegDir _ _ => true
  | .anlRegReg _ _ => true
  | .anlRegInd _ _ => true
  | .anlRegImm _ _ => true
  | .anlRegDir _ _ => true
  | .addRegReg _ _ => true
  | .addRegInd _ _ => true
  | .addRegImm _ _ => true
  | .addRegDir _ _ => true
  | .subRegReg _ _ => true
  | .subRegInd _ _ => true
  | .subRegImm _ _ => true
  | .subRegDir _ _ => true
  | .movIndReg _ _ => true
  | .movDirReg _ _ => true
  | .jmp _ => true
  | .jf _ _ => true
  | .jt _ _ => true
  | .call _ => true
  | .ret => true
  | .push _ => true
  | .pop _ => true
  | .inc _ => true
  | .dec _ => true
  | .srl _ => true
  | .sra _ => true
  | .rrc _ => true
  | .cplReg _ => true
  | .clr _ => true
  | .setb _ => true
  | .cplFlag _ => true
  | .wait _ => true
  | .reserved1000 _ => true
  | .reserved100110 _ => true
  | .reserved10111001 => true
  | .reserved1011101 _ => true
  | .reserved101111 _ => true
  | .reserved111011 _ => true
  | .reserved111101 _ => true
  | .reserved11111 _ => true

end Sys2Proof
end

