-- ==== Sys2Proof/Decode.lean ====
section
/-! DEFINITION. Decoding and encoding (spec 30_encoding.md R90 to R108). The first byte alone selects
the instruction and all its register, flag and test fields (R90). -/

namespace Sys2Proof

/-- Bits `hi` down to `lo` of a byte, as a number (00_scope.md R13). -/
def bits (b : Byte) (hi lo : Nat) : Nat := (b.toNat >>> lo) % 2 ^ (hi - lo + 1)

/-- A register from its two-bit number (R95). -/
def Reg.ofBits : Nat → Reg
  | 0 => .r0
  | 1 => .r1
  | 2 => .r2
  | _ => .r3

/-- The two-bit number of a register (R95). -/
def Reg.code : Reg → BitVec 2
  | .r0 => 0b00
  | .r1 => 0b01
  | .r2 => 0b10
  | .r3 => 0b11

/-- A pointer register from its one-bit number (R96). -/
def Pointer.ofBits : Nat → Pointer
  | 0 => .r0
  | _ => .r1

/-- The one-bit number of a pointer register (R96). -/
def Pointer.code : Pointer → BitVec 1
  | .r0 => 0
  | .r1 => 1

/-- A flag from its two-bit code (R102). -/
def FlagName.ofBits : Nat → FlagName
  | 0 => .c
  | 1 => .v
  | 2 => .z
  | _ => .s

/-- The two-bit code of a flag (R102). -/
def FlagName.code : FlagName → BitVec 2
  | .c => 0b00
  | .v => 0b01
  | .z => 0b10
  | .s => 0b11

/-- A test input from its two-bit number (R103). -/
def TestPin.ofBits : Nat → TestPin
  | 0 => .t0
  | 1 => .t1
  | 2 => .t2
  | _ => .t3

/-- The two-bit number of a test input (R103). -/
def TestPin.code : TestPin → BitVec 2
  | .t0 => 0b00
  | .t1 => 0b01
  | .t2 => 0b10
  | .t3 => 0b11

/-- How many bytes are fetched for a first byte (R91); one for a reserved first byte, whose fault
comes before any further fetch (R107). -/
def instrLength (hasLong : Bool) (b1 : Byte) : Nat :=
  let n := b1.toNat
  if hasLong && (n == 0xA4 || n == 0xB4) then 3
  else if bits b1 7 7 == 0 && bits b1 4 3 == 0b11 then 2
  else if 0x9C ≤ n && n ≤ 0x9F then 2
  else if (0xA0 ≤ n && n ≤ 0xA3) || (0xA8 ≤ n && n ≤ 0xAF) || (0xB0 ≤ n && n ≤ 0xB3) then 2
  else 1

/-- The four operand forms of MOV, ANL, ADD and SUB (R93: formats RR, RM, RI, RD). -/
def decodeForm (b1 b2 : Byte) (rr : Reg → Reg → Instr) (rm : Reg → Pointer → Instr)
    (ri rd : Reg → Byte → Instr) : Instr :=
  if bits b1 4 4 = 0 then rr (Reg.ofBits (bits b1 1 0)) (Reg.ofBits (bits b1 3 2))
  else if bits b1 3 3 = 0 then rm (Reg.ofBits (bits b1 1 0)) (Pointer.ofBits (bits b1 2 2))
  else if bits b1 2 2 = 0 then ri (Reg.ofBits (bits b1 1 0)) b2
  else rd (Reg.ofBits (bits b1 1 0)) b2

/-- The two-operand group, first byte 00h..7Fh (R104); 00h is NOP (R113). -/
def decodeTwoOperand (b1 b2 : Byte) : Instr :=
  if bits b1 7 0 = 0 then .nop
  else if bits b1 6 5 = 0b00 then decodeForm b1 b2 .movRegReg .movRegInd .movRegImm .movRegDir
  else if bits b1 6 5 = 0b01 then decodeForm b1 b2 .anlRegReg .anlRegInd .anlRegImm .anlRegDir
  else if bits b1 6 5 = 0b10 then decodeForm b1 b2 .addRegReg .addRegInd .addRegImm .addRegDir
  else decodeForm b1 b2 .subRegReg .subRegInd .subRegImm .subRegDir

/-- First bytes 90h..9Fh: the two stores (R104). -/
def decodeStore (b1 b2 : Byte) : Instr :=
  if bits b1 3 3 = 0 then .movIndReg (Pointer.ofBits (bits b1 2 2)) (Reg.ofBits (bits b1 1 0))
  else if bits b1 3 2 = 0b10 then .reserved100110 (b1.extractLsb' 0 2)
  else .movDirReg b2 (Reg.ofBits (bits b1 1 0))

/-- First bytes A0h..AFh: the jumps (R104). -/
def decodeJump (hasLong : Bool) (b1 b2 b3 : Byte) : Instr :=
  if bits b1 3 2 = 0b00 then .jmp (b1.extractLsb' 0 2 ++ b2)
  else if bits b1 3 0 = 0b0100 ∧ hasLong = true then .ljmp (b3 ++ b2)
  else if bits b1 3 2 = 0b01 then .reserved101001 (b1.extractLsb' 0 2)
  else if bits b1 3 2 = 0b10 then .jf (FlagName.ofBits (bits b1 1 0)) b2
  else .jt (FlagName.ofBits (bits b1 1 0)) b2

/-- First bytes B0h..BFh: the calls and RET (R104). -/
def decodeCall (hasLong : Bool) (b1 b2 b3 : Byte) : Instr :=
  if bits b1 3 2 = 0b00 then .call (b1.extractLsb' 0 2 ++ b2)
  else if bits b1 3 0 = 0b0100 ∧ hasLong = true then .lcall (b3 ++ b2)
  else if bits b1 3 2 = 0b01 then .reserved101101 (b1.extractLsb' 0 2)
  else if bits b1 3 0 = 0b1000 then .ret
  else if bits b1 3 0 = 0b1001 then .reserved10111001
  else if bits b1 3 1 = 0b101 then .reserved1011101 (b1.extractLsb' 0 1)
  else .reserved101111 (b1.extractLsb' 0 2)

/-- First bytes C0h..DFh: the one-register group (R104). -/
def decodeOneReg (b1 : Byte) : Instr :=
  let r := Reg.ofBits (bits b1 1 0)
  if bits b1 4 2 = 0b000 then .push r
  else if bits b1 4 2 = 0b001 then .pop r
  else if bits b1 4 2 = 0b010 then .inc r
  else if bits b1 4 2 = 0b011 then .dec r
  else if bits b1 4 2 = 0b100 then .srl r
  else if bits b1 4 2 = 0b101 then .sra r
  else if bits b1 4 2 = 0b110 then .rrc r
  else .cplReg r

/-- First bytes E0h..EFh: the flag group (R104). -/
def decodeFlagOp (b1 : Byte) : Instr :=
  let f := FlagName.ofBits (bits b1 1 0)
  if bits b1 3 2 = 0b00 then .clr f
  else if bits b1 3 2 = 0b01 then .setb f
  else if bits b1 3 2 = 0b10 then .cplFlag f
  else .reserved111011 (b1.extractLsb' 0 2)

/-- First bytes F0h..FFh: WAIT (R104). -/
def decodeWait (b1 : Byte) : Instr :=
  if bits b1 3 2 = 0b00 then .wait (TestPin.ofBits (bits b1 1 0))
  else if bits b1 3 2 = 0b01 then .reserved111101 (b1.extractLsb' 0 2)
  else .reserved11111 (b1.extractLsb' 0 3)

/-- The instruction a first byte selects (R104), from the top bits down. `b2` and `b3` are the
operand bytes; an instruction that has none does not look at them. -/
def decodeOp (hasLong : Bool) (b1 b2 b3 : Byte) : Instr :=
  if bits b1 7 7 = 0 then decodeTwoOperand b1 b2
  else if bits b1 7 4 = 0b1000 then .reserved1000 (b1.extractLsb' 0 4)
  else if bits b1 7 4 = 0b1001 then decodeStore b1 b2
  else if bits b1 7 4 = 0b1010 then decodeJump hasLong b1 b2 b3
  else if bits b1 7 4 = 0b1011 then decodeCall hasLong b1 b2 b3
  else if bits b1 7 5 = 0b110 then decodeOneReg b1
  else if bits b1 7 4 = 0b1110 then decodeFlagOp b1
  else decodeWait b1

/-- Why a list of bytes holds no instruction at its head. A reserved first byte is no such reason:
it decodes to its row of the table, whose meaning is the fault of R107. -/
inductive DecodeError where
  /-- There is no first byte. -/
  | noBytes
  /-- The list ends before the operand bytes that the first byte calls for. -/
  | missingOperand
deriving DecidableEq, Repr

/-- The instruction at the head of a list of bytes, and the bytes after it (R90, R92). -/
def decode (hasLong : Bool) : List Byte → Except DecodeError (Instr × List Byte)
  | [] => .error .noBytes
  | b1 :: rest =>
    if instrLength hasLong b1 = 1 then .ok (decodeOp hasLong b1 0 0, rest)
    else if instrLength hasLong b1 = 2 then
      match rest with
      | b2 :: rest' => .ok (decodeOp hasLong b1 b2 0, rest')
      | [] => .error .missingOperand
    else
      match rest with
      | b2 :: b3 :: rest' => .ok (decodeOp hasLong b1 b2 b3, rest')
      | _ => .error .missingOperand

/-- Byte `k` of an instruction given as one number, its first byte in bits 7..0. -/
def tableByte (nbits w k : Nat) : Byte := BitVec.ofNat 8 ((w % 2 ^ nbits) >>> (8 * k))

/-- The instruction the decoder reads from the bits `w`, `nbits` of them given and the rest 0. The
decoder is that of a build with LJMP and LCALL, which has every row of the table (log 24). -/
def decodeTableWord (nbits w : Nat) : Option Instr :=
  match decode true [tableByte nbits w 0, tableByte nbits w 1, tableByte nbits w 2] with
  | .ok (i, _) => some i
  | .error _ => none

/-- The bytes of an instruction, first byte first (R93 to R103). -/
def encode : Instr → List Byte
  | .nop => [0b00000000]
  | .movRegReg rd rs => [0b0000#4 ++ rs.code ++ rd.code]
  | .movRegInd rd ri => [0b00010#5 ++ ri.code ++ rd.code]
  | .movRegImm rd imm => [0b000110#6 ++ rd.code, imm]
  | .movRegDir rd dir => [0b000111#6 ++ rd.code, dir]
  | .anlRegReg rd rs => [0b0010#4 ++ rs.code ++ rd.code]
  | .anlRegInd rd ri => [0b00110#5 ++ ri.code ++ rd.code]
  | .anlRegImm rd imm => [0b001110#6 ++ rd.code, imm]
  | .anlRegDir rd dir => [0b001111#6 ++ rd.code, dir]
  | .addRegReg rd rs => [0b0100#4 ++ rs.code ++ rd.code]
  | .addRegInd rd ri => [0b01010#5 ++ ri.code ++ rd.code]
  | .addRegImm rd imm => [0b010110#6 ++ rd.code, imm]
  | .addRegDir rd dir => [0b010111#6 ++ rd.code, dir]
  | .subRegReg rd rs => [0b0110#4 ++ rs.code ++ rd.code]
  | .subRegInd rd ri => [0b01110#5 ++ ri.code ++ rd.code]
  | .subRegImm rd imm => [0b011110#6 ++ rd.code, imm]
  | .subRegDir rd dir => [0b011111#6 ++ rd.code, dir]
  | .movIndReg ri rs => [0b10010#5 ++ ri.code ++ rs.code]
  | .movDirReg dir rs => [0b100111#6 ++ rs.code, dir]
  | .jmp a => [0b101000#6 ++ a.extractLsb' 8 2, a.extractLsb' 0 8]
  | .ljmp a => [0b10100100, a.extractLsb' 0 8, a.extractLsb' 8 8]
  | .jf f a => [0b101010#6 ++ f.code, a]
  | .jt f a => [0b101011#6 ++ f.code, a]
  | .call a => [0b101100#6 ++ a.extractLsb' 8 2, a.extractLsb' 0 8]
  | .lcall a => [0b10110100, a.extractLsb' 0 8, a.extractLsb' 8 8]
  | .ret => [0b10111000]
  | .push rs => [0b110000#6 ++ rs.code]
  | .pop rd => [0b110001#6 ++ rd.code]
  | .inc rd => [0b110010#6 ++ rd.code]
  | .dec rd => [0b110011#6 ++ rd.code]
  | .srl rd => [0b110100#6 ++ rd.code]
  | .sra rd => [0b110101#6 ++ rd.code]
  | .rrc rd => [0b110110#6 ++ rd.code]
  | .cplReg rd => [0b110111#6 ++ rd.code]
  | .clr f => [0b111000#6 ++ f.code]
  | .setb f => [0b111001#6 ++ f.code]
  | .cplFlag f => [0b111010#6 ++ f.code]
  | .wait t => [0b111100#6 ++ t.code]
  | .reserved1000 x => [0b1000#4 ++ x]
  | .reserved100110 x => [0b100110#6 ++ x]
  | .reserved101001 x => [0b101001#6 ++ x]
  | .reserved101101 x => [0b101101#6 ++ x]
  | .reserved10111001 => [0b10111001]
  | .reserved1011101 x => [0b1011101#7 ++ x]
  | .reserved101111 x => [0b101111#6 ++ x]
  | .reserved111011 x => [0b111011#6 ++ x]
  | .reserved111101 x => [0b111101#6 ++ x]
  | .reserved11111 x => [0b11111#5 ++ x]

end Sys2Proof
end

