-- ==== Sys2Proof/Machine/Fetch.lean ====
section
/-! DEFINITION. Fetching an instruction (spec 00_scope.md R14; 30_encoding.md R91, R107), and placing
one where the next fetch finds it. -/

namespace Sys2Proof.Machine

/-- `ProgRead(pc)`, then the PC advances (R14). -/
def State.fetchByte (s : State) : Except Fault (Byte × State) :=
  match s.progRead s.pc with
  | .ok b => .ok (b, { s with pc := s.nextAddr s.pc })
  | .error f => .error f

/-- Fetch the first byte and the operand bytes it calls for, in ascending order, and decode them (R14,
R92). The state answered has `pc` at the next instruction. -/
def State.fetch (s : State) : Except Fault (Instr × State) :=
  match s.fetchByte with
  | .error f => .error f
  | .ok (b1, s1) =>
    if instrLength s.build.hasLong b1 = 1 then .ok (decodeOp s.build.hasLong b1 0 0, s1)
    else
      match s1.fetchByte with
      | .error f => .error f
      | .ok (b2, s2) =>
        if instrLength s.build.hasLong b1 = 2 then .ok (decodeOp s.build.hasLong b1 b2 0, s2)
        else
          match s2.fetchByte with
          | .error f => .error f
          | .ok (b3, s3) => .ok (decodeOp s.build.hasLong b1 b2 b3, s3)

/-- The build with what three instruction bytes at these addresses need: the addresses exist, and a
build without long jumps becomes a stretched one when the first byte is LJMP or LCALL (log 4). -/
def hostingBuild (b : Build) (b1 : Byte) (a1 a2 a3 : ProgAddr) : Build :=
  let long := b1.toNat == 0xA4 || b1.toNat == 0xB4
  { b with
    pcWidth := if long then .bits16 else b.pcWidth
    hasLong := b.hasLong || long
    progSize := max b.progSize (max a1.toNat (max a2.toNat a3.toNat) + 1) }

/-- The state with three instruction bytes where the next step fetches, and no WAIT pending (log 4). -/
def State.placeBytes (s : State) (b1 b2 b3 : Byte) : State :=
  let a1 := s.pc
  let width := (hostingBuild s.build b1 a1 a1 a1).pcWidth
  let a2 := cutPc width (a1 + 1)
  let a3 := cutPc width (a2 + 1)
  { s with
    build := hostingBuild s.build b1 a1 a2 a3
    prog := ((s.prog.write a1.toNat b1).write a2.toNat b2).write a3.toNat b3
    waiting := none }

end Sys2Proof.Machine
end

