-- ==== Sys2Proof/Machine/Step.lean ====
section
/-! DEFINITION. One step of the machine (spec 00_scope.md R14; 46_wait.md R187). -/

namespace Sys2Proof.Machine

/-- A held processor asks its test input again; otherwise one instruction is fetched, the PC advances,
and the instruction is executed. -/
def step (s : State) : Host.Outcome State Fault Refusal :=
  match s.waiting with
  | some t => heldStep t s
  | none =>
    match s.fetch with
    | .ok (i, s1) => exec i s1
    | .error f => .fault f

/-- The state with an instruction's bits stored where the next step fetches (log 4). -/
def State.withFetchWord (s : State) (nbits w : Nat) : State :=
  s.placeBytes (tableByte nbits w 0) (tableByte nbits w 1) (tableByte nbits w 2)

end Sys2Proof.Machine
end

