-- ==== Sys2Proof/Machine/Assembler.lean ====
section
/-! DEFINITION. What the source fixes of the assembler (spec 30_encoding.md R97 to R103, R110 to R113;
00_scope.md R11): the notation of an instruction, and the operand checks with their translations.
Labels, directives and comments are not in the source (91_not_in_source.md N13). -/

namespace Sys2Proof

/-- One hexadecimal digit, capital letters (R11). -/
def hexDigit (n : Nat) : String :=
  String.singleton (("0123456789ABCDEF".toList)[n % 16]?.getD '0')

/-- Hexadecimal digits of `n`, `k` of them. -/
def hexDigits : Nat → Nat → String
  | 0, _ => ""
  | k + 1, n => hexDigits k (n / 16) ++ hexDigit n

/-- A number in the source's style: a trailing `h`, a leading `0` when the first digit is a letter
(R11). -/
def intelHex (k n : Nat) : String :=
  (if 10 ≤ (n / 16 ^ (k - 1)) % 16 then "0" else "") ++ hexDigits k n ++ "h"

/-- `R0`..`R3` (R110). -/
def Reg.text : Reg → String
  | .r0 => "R0"
  | .r1 => "R1"
  | .r2 => "R2"
  | .r3 => "R3"

/-- `@R0`, `@R1` (R110). -/
def Pointer.text : Pointer → String
  | .r0 => "@R0"
  | .r1 => "@R1"

/-- `C`, `V`, `Z`, `S` (R102, R110). -/
def FlagName.text : FlagName → String
  | .c => "C"
  | .v => "V"
  | .z => "Z"
  | .s => "S"

/-- `0`..`3` (R103, R110). -/
def TestPin.text : TestPin → String
  | .t0 => "0"
  | .t1 => "1"
  | .t2 => "2"
  | .t3 => "3"

/-- A direct address: the bare value, or the names the assembler knows (R97). -/
def dirText (a : Byte) : String :=
  if a = 0xFE then "SP" else if a = 0xFF then "PSW" else intelHex 2 a.toNat

/-- An immediate (R98, R110). -/
def immText (b : Byte) : String := "#" ++ intelHex 2 b.toNat

/-- A reserved code has no notation; its byte is shown. -/
def reservedText (i : Instr) : String :=
  "(reserved) " ++ intelHex 2 (((encode i).headD 0).toNat)

/-- A program address, with as many digits as `PCW` needs. -/
def addrText (w : PcWidth) (a : ProgAddr) : String :=
  match w with
  | .bits10 => intelHex 3 a.toNat
  | .bits16 => intelHex 4 a.toNat

/-- The target a jump or call carries, completed with the page bits of the next instruction's address
`next` (R99, R100, R101). -/
def Instr.target (w : PcWidth) (next : ProgAddr) : Instr → Option ProgAddr
  | .jmp a | .call a => some (Machine.cutPc w (next.extractLsb' 10 6 ++ a))
  | .jf _ a | .jt _ a => some (Machine.cutPc w (next.extractLsb' 8 8 ++ a))
  | .ljmp a | .lcall a => some a
  | _ => none

/-- The assembler notation of an instruction, `next` being the address of the next one (R110, R112,
R113). -/
def Instr.text (w : PcWidth) (next : ProgAddr) (i : Instr) : String :=
  let goal := addrText w ((i.target w next).getD 0)
  match i with
  | .nop => "NOP"
  | .movRegReg rd rs => "MOV " ++ rd.text ++ "," ++ rs.text
  | .movRegInd rd ri => "MOV " ++ rd.text ++ "," ++ ri.text
  | .movRegImm rd b => "MOV " ++ rd.text ++ "," ++ immText b
  | .movRegDir rd a => "MOV " ++ rd.text ++ "," ++ dirText a
  | .anlRegReg rd rs => "ANL " ++ rd.text ++ "," ++ rs.text
  | .anlRegInd rd ri => "ANL " ++ rd.text ++ "," ++ ri.text
  | .anlRegImm rd b => "ANL " ++ rd.text ++ "," ++ immText b
  | .anlRegDir rd a => "ANL " ++ rd.text ++ "," ++ dirText a
  | .addRegReg rd rs => "ADD " ++ rd.text ++ "," ++ rs.text
  | .addRegInd rd ri => "ADD " ++ rd.text ++ "," ++ ri.text
  | .addRegImm rd b => "ADD " ++ rd.text ++ "," ++ immText b
  | .addRegDir rd a => "ADD " ++ rd.text ++ "," ++ dirText a
  | .subRegReg rd rs => "SUB " ++ rd.text ++ "," ++ rs.text
  | .subRegInd rd ri => "SUB " ++ rd.text ++ "," ++ ri.text
  | .subRegImm rd b => "SUB " ++ rd.text ++ "," ++ immText b
  | .subRegDir rd a => "SUB " ++ rd.text ++ "," ++ dirText a
  | .movIndReg ri rs => "MOV " ++ ri.text ++ "," ++ rs.text
  | .movDirReg a rs => "MOV " ++ dirText a ++ "," ++ rs.text
  | .jmp _ => "JMP " ++ goal
  | .ljmp _ => "LJMP " ++ goal
  | .jf f _ => "JF " ++ f.text ++ "," ++ goal
  | .jt f _ => "JT " ++ f.text ++ "," ++ goal
  | .call _ => "CALL " ++ goal
  | .lcall _ => "LCALL " ++ goal
  | .ret => "RET"
  | .push rs => "PUSH " ++ rs.text
  | .pop rd => "POP " ++ rd.text
  | .inc rd => "INC " ++ rd.text
  | .dec rd => "DEC " ++ rd.text
  | .srl rd => "SRL " ++ rd.text
  | .sra rd => "SRA " ++ rd.text
  | .rrc rd => "RRC " ++ rd.text
  | .cplReg rd => "CPL " ++ rd.text
  | .clr f => "CLR " ++ f.text
  | .setb f => "SETB " ++ f.text
  | .cplFlag f => "CPL " ++ f.text
  | .wait t => "WAIT " ++ t.text
  | .reserved1000 _ => reservedText i
  | .reserved100110 _ => reservedText i
  | .reserved101001 _ => reservedText i
  | .reserved101101 _ => reservedText i
  | .reserved10111001 => reservedText i
  | .reserved1011101 _ => reservedText i
  | .reserved101111 _ => reservedText i
  | .reserved111011 _ => reservedText i
  | .reserved111101 _ => reservedText i
  | .reserved11111 _ => reservedText i

/-- The byte of an immediate: the assembler takes -128..255 and stores a negative value `n` as
256 + `n` (R98, R111). -/
def asmImm (n : Int) : Option Byte :=
  if -128 ≤ n ∧ n ≤ 255 then some (BitVec.ofInt 8 n) else none

/-- The operand byte of a JF or JT at address `at_`, given the full target: the target must lie in the
256-byte page of the next instruction (R99, R111). -/
def asmAdr8 (w : PcWidth) (at_ target : ProgAddr) : Option Byte :=
  let next := Machine.cutPc w (at_ + 2)
  if next.extractLsb' 8 8 = target.extractLsb' 8 8 then some (target.extractLsb' 0 8) else none

/-- The operand of a JMP or CALL at address `at_`, given the full target: the target must lie in the
1 KiB page of the next instruction, which a 10-bit PC makes no restriction (R100, R111). -/
def asmAdr10 (w : PcWidth) (at_ target : ProgAddr) : Option (BitVec 10) :=
  let next := Machine.cutPc w (at_ + 2)
  if next.extractLsb' 10 6 = target.extractLsb' 10 6 then some (target.extractLsb' 0 10) else none

end Sys2Proof
end

