-- ==== Sys2Proof/Machine/Bus.lean ====
section
/-! DEFINITION. The input/output bus as the pins show an action (spec 20_memory.md R59 to R62;
60_exceptions.md R199). Between actions the bus holds nothing, so these are functions of an action
and not state (10_state.md R34). -/

namespace Sys2Proof

/-- The four signals of the bus during one clock cycle (R59); a signal whose value has no meaning in
that cycle is `none`. -/
structure BusCycle where
  ioctl : BitVec 2
  ioadr : Option Port
  dout : Option Byte
  din : Option Byte
deriving DecidableEq, Repr

/-- The bus outside an action (R59, R62). -/
def BusCycle.idle : BusCycle := ⟨0b00, none, none, none⟩

/-- The one cycle of an action (R60, R61). -/
def IoEvent.cycle : IoEvent → BusCycle
  | .read p v => ⟨0b01, some p, none, some v⟩
  | .write p v => ⟨0b10, some p, some v, none⟩

/-- What the pins of the parallel output port at 0E5h show after a sequence of actions: the byte last
written, none before the first write (R199; G5, log 17: PRESUMED). -/
def outputPins (trace : List IoEvent) : Option Byte :=
  trace.foldl (fun pins e =>
    match e with
    | .write p v => if p = 5 then some v else pins
    | .read _ _ => pins) none

end Sys2Proof
end

