-- ==== Sys2Proof/Safety.lean ====
section
/-! DEFINITION. The terms in which claims about the machine are stated: start-up, the invariant, what an
instruction leaves unchanged, the four operand forms as the spec describes them, and a finished
run. -/

namespace Sys2Proof.Machine

/-! Start-up and the invariant -/

/-- What the spec says of every state right after start-up (10_state.md R37; 70_reset_and_hazards.md
R220); registers, SP and RAM are unspecified. -/
abbrev State.IsStartUp (s : State) : Prop :=
  s.pc = 0 ∧ s.psw = 0 ∧ s.waiting = none ∧ s.trace = []

/-- The PC holds no bit above `PCW` (10_state.md R23). -/
abbrev State.PcFits (s : State) : Prop := s.pc.toNat < 2 ^ s.build.pcWidth.bits

/-- The invariant: the build's parameters are in range, the PC fits, and both memories are canonical
and list no address that does not exist (10_state.md R23, R31, R32; 00_scope.md R4). -/
abbrev State.Inv (s : State) : Prop :=
  s.build.wf ∧ s.PcFits ∧ s.ram.wf ∧ s.ram.below s.build.ramSize ∧ s.prog.wf ∧
    s.prog.below s.build.progSize

/-- A build of full size: all of the program memory and the RAM that the source allows. -/
abbrev State.FullSize (s : State) : Prop :=
  s.build.progSize = 2 ^ s.build.pcWidth.bits ∧ s.build.ramSize = 256

/-- A finished run: a step leaves the whole state unchanged (70_reset_and_hazards.md R227). -/
def State.Finished (s : State) : Prop := step s = .next s

/-! Frames -/

/-- Every work register but those listed is unchanged. -/
def KeepsRegs (s t : State) (except : List Reg) : Prop := ∀ r, r ∉ except → t.reg r = s.reg r

/-- Every byte of data RAM but those at the listed addresses reads as before. -/
def KeepsRam (s t : State) (except : List Byte) : Prop :=
  ∀ a : Byte, a ∉ except → t.ramByte a = s.ramByte a

/-- Every flag but those listed is unchanged, and so are PSW bits 4..7. -/
def KeepsFlags (s t : State) (except : List FlagName) : Prop :=
  (∀ f, f ∉ except → t.flag f = s.flag f) ∧ t.psw.extractLsb' 4 4 = s.psw.extractLsb' 4 4

/-- The build and the program memory are unchanged, and no WAIT has begun or ended. -/
def KeepsConstants (s t : State) : Prop :=
  t.build = s.build ∧ t.prog = s.prog ∧ t.waiting = s.waiting

/-- No action on the input/output bus and no sampling of a test input took place. -/
def KeepsEnv (s t : State) : Prop :=
  t.trace = s.trace ∧ t.ioAnswers = s.ioAnswers ∧ t.testAnswers = s.testAnswers ∧
    t.samples = s.samples

/-! The operand forms of MOV, ANL, ADD and SUB (41_alu.md R130) -/

/-- A second operand. -/
inductive Operand where
  | reg (rs : Reg)
  | ind (ri : Pointer)
  | imm (b : Byte)
  | dir (a : Byte)
deriving DecidableEq, Repr

/-- Reading the operand in `s` delivers `v`, as the spec's address map has it (20_memory.md R53 to R58):
what must hold of the state for the operand to be readable, and which byte it is. -/
def Operand.Delivers (s : State) (v : Byte) : Operand → Prop
  | .reg rs => v = s.reg rs
  | .ind ri => (s.pointer ri).toNat < s.build.ramSize ∧ v = s.ramByte (s.pointer ri)
  | .imm b => v = b
  | .dir a =>
    (a.toNat ≤ 0xDF ∧ a.toNat < s.build.ramSize ∧ v = s.ramByte a) ∨
    (0xE0 ≤ a.toNat ∧ a.toNat ≤ 0xEF ∧ v = s.ioAnswer (BitVec.ofNat 4 (a.toNat - 0xE0))) ∨
    (a.toNat = 0xFE ∧ v = s.sp) ∨ (a.toNat = 0xFF ∧ v = s.psw)

/-- The environment's side after the operand is read: one read action for a direct address
0E0h..0EFh, nothing for any other operand (20_memory.md R60, R62). -/
def Operand.EnvAfter (s t : State) (v : Byte) : Operand → Prop
  | .dir a =>
    if 0xE0 ≤ a.toNat ∧ a.toNat ≤ 0xEF then
      t.trace = s.trace ++ [.read (BitVec.ofNat 4 (a.toNat - 0xE0)) v] ∧
        t.ioAnswers = s.ioAnswers.tail ∧ t.testAnswers = s.testAnswers ∧ t.samples = s.samples
    else KeepsEnv s t
  | _ => KeepsEnv s t

/-- `MOV Rd,<operand>`. -/
def movOf (rd : Reg) : Operand → Instr
  | .reg rs => .movRegReg rd rs
  | .ind ri => .movRegInd rd ri
  | .imm b => .movRegImm rd b
  | .dir a => .movRegDir rd a

/-- `ANL Rd,<operand>`. -/
def anlOf (rd : Reg) : Operand → Instr
  | .reg rs => .anlRegReg rd rs
  | .ind ri => .anlRegInd rd ri
  | .imm b => .anlRegImm rd b
  | .dir a => .anlRegDir rd a

/-- `ADD Rd,<operand>`. -/
def addOf (rd : Reg) : Operand → Instr
  | .reg rs => .addRegReg rd rs
  | .ind ri => .addRegInd rd ri
  | .imm b => .addRegImm rd b
  | .dir a => .addRegDir rd a

/-- `SUB Rd,<operand>`. -/
def subOf (rd : Reg) : Operand → Instr
  | .reg rs => .subRegReg rd rs
  | .ind ri => .subRegInd rd ri
  | .imm b => .subRegImm rd b
  | .dir a => .subRegDir rd a

/-! What the spec's tables say of an instruction -/

/-- The work registers an instruction may write (10_state.md R20). -/
def regsWritten : Instr → List Reg
  | .movRegReg rd _ | .movRegInd rd _ | .movRegImm rd _ | .movRegDir rd _ => [rd]
  | .anlRegReg rd _ | .anlRegInd rd _ | .anlRegImm rd _ | .anlRegDir rd _ => [rd]
  | .addRegReg rd _ | .addRegInd rd _ | .addRegImm rd _ | .addRegDir rd _ => [rd]
  | .subRegReg rd _ | .subRegInd rd _ | .subRegImm rd _ | .subRegDir rd _ => [rd]
  | .pop rd | .inc rd | .dec rd | .srl rd | .sra rd | .rrc rd | .cplReg rd => [rd]
  | _ => []

/-- The flags an instruction may write (10_state.md R28). -/
def flagsWritten : Instr → List FlagName
  | .addRegReg _ _ | .addRegInd _ _ | .addRegImm _ _ | .addRegDir _ _ => [.c, .v, .z, .s]
  | .subRegReg _ _ | .subRegInd _ _ | .subRegImm _ _ | .subRegDir _ _ => [.c, .v, .z, .s]
  | .anlRegReg _ _ | .anlRegInd _ _ | .anlRegImm _ _ | .anlRegDir _ _ => [.z, .s]
  | .inc _ | .dec _ => [.z]
  | .srl _ | .sra _ | .rrc _ => [.c]
  | .clr f | .setb f | .cplFlag f => [f]
  | .movDirReg dir _ => if dir = 0xFF then [.c, .v, .z, .s] else []
  | _ => []

/-- The instructions that write the PC beyond the advance of the fetch (10_state.md R24). -/
def writesPc : Instr → Bool
  | .jmp _ | .ljmp _ | .jf _ _ | .jt _ _ | .call _ | .lcall _ | .ret => true
  | _ => false

/-- The SP after an instruction completes: PUSH, CALL and LCALL raise it by one per byte, POP and RET
lower it, `MOV SP,Rs` loads it, nothing else changes it (10_state.md R30; wrap: log 7). -/
def spAfter (s : State) : Instr → Byte
  | .push _ => s.sp + 1
  | .call _ | .lcall _ => s.sp + 2
  | .pop _ => s.sp - 1
  | .ret => s.sp - 2
  | .movDirReg dir rs => if dir = 0xFE then s.reg rs else s.sp
  | _ => s.sp

/-- The RAM addresses an instruction stores to, computed in the state it is executed in (20_memory.md
R54 to R58). -/
def storesTo (s : State) : Instr → List Byte
  | .movIndReg ri _ => [s.pointer ri]
  | .movDirReg dir _ => if dir.toNat ≤ 0xDF then [dir] else []
  | .push _ => [s.sp + 1]
  | .call _ | .lcall _ => [s.sp + 1, s.sp + 2]
  | _ => []

/-- The direct source address of an instruction, if it has one. -/
def directSource : Instr → Option Byte
  | .movRegDir _ a | .anlRegDir _ a | .addRegDir _ a | .subRegDir _ a => some a
  | _ => none

/-- The actions an instruction makes on the input/output bus when it completes (20_memory.md R60 to
R62). -/
def actionsOf (s : State) (i : Instr) : List IoEvent :=
  match directSource i, i with
  | some a, _ =>
    if 0xE0 ≤ a.toNat ∧ a.toNat ≤ 0xEF then
      [.read (BitVec.ofNat 4 (a.toNat - 0xE0)) (s.ioAnswer (BitVec.ofNat 4 (a.toNat - 0xE0)))]
    else []
  | none, .movDirReg a rs =>
    if 0xE0 ≤ a.toNat ∧ a.toNat ≤ 0xEF then
      [.write (BitVec.ofNat 4 (a.toNat - 0xE0)) (s.reg rs)]
    else []
  | none, _ => []

/-- The rows of the table that are reserved codes (30_encoding.md R106). -/
def isReserved : Instr → Bool
  | .reserved1000 _ | .reserved100110 _ | .reserved101001 _ | .reserved101101 _ => true
  | .reserved10111001 | .reserved1011101 _ | .reserved101111 _ | .reserved111011 _ => true
  | .reserved111101 _ | .reserved11111 _ => true
  | _ => false

/-- The reserved first bytes as 30_encoding.md R106 lists them. -/
def reservedByte (hasLong : Bool) (b1 : Byte) : Bool :=
  let n := b1.toNat
  (0x80 ≤ n && n ≤ 0x8F) || (0x98 ≤ n && n ≤ 0x9B) || (0xA5 ≤ n && n ≤ 0xA7) ||
  (0xB5 ≤ n && n ≤ 0xB7) || n == 0xB9 || (0xBA ≤ n && n ≤ 0xBB) || (0xBC ≤ n && n ≤ 0xBF) ||
  (0xEC ≤ n && n ≤ 0xEF) || (0xF4 ≤ n && n ≤ 0xF7) || (0xF8 ≤ n && n ≤ 0xFF) ||
  (!hasLong && (n == 0xA4 || n == 0xB4))

/-- One instruction executed `n` times in a row, the PC left alone. -/
def execTimes (i : Instr) : Nat → State → Host.Outcome State Fault Refusal
  | 0, s => .next s
  | n + 1, s =>
    match exec i s with
    | .next t => execTimes i n t
    | o => o

/-- An outcome with its next state changed, a fault or refusal as it is. -/
def onNext (f : State → State) :
    Host.Outcome State Fault Refusal → Host.Outcome State Fault Refusal
  | .next t => .next (f t)
  | .fault e => .fault e
  | .refused e => .refused e

/-! The program as the fetch sees it -/

/-- The address of instruction byte `k` of the instruction at the PC (30_encoding.md R92). -/
def State.pcAt (s : State) : Nat → ProgAddr
  | 0 => s.pc
  | k + 1 => s.nextAddr (State.pcAt s k)

/-- The first three bytes of program memory from the PC on. -/
def State.codeBytes (s : State) : List Byte :=
  [s.prog.read (s.pcAt 0).toNat, s.prog.read (s.pcAt 1).toNat, s.prog.read (s.pcAt 2).toNat]

/-! When a step raises a fault (60_exceptions.md R193, the column "Raised when") -/

/-- The direct address an instruction reads or writes, if it has one (20_memory.md R54). -/
def directAddress : Instr → Option Byte
  | .movDirReg a _ => some a
  | i => directSource i

/-- The RAM addresses an instruction reads or writes, in the order of its accesses and computed in the
state it is executed in, whether or not the build has them (20_memory.md R54 to R58; 42_control.md
R155 to R157; 43_stack.md R165, R166). -/
def ramAccesses (s : State) : Instr → List Byte
  | .movRegInd _ ri | .anlRegInd _ ri | .addRegInd _ ri | .subRegInd _ ri => [s.pointer ri]
  | .movIndReg ri _ => [s.pointer ri]
  | .push _ => [s.sp + 1]
  | .pop _ => [s.sp]
  | .call _ | .lcall _ => [s.sp + 1, s.sp + 2]
  | .ret => [s.sp, s.sp - 1]
  | i =>
    match directAddress i with
    | some a => if a.toNat ≤ 0xDF then [a] else []
    | none => []

/-- The bytes at the PC are those of `i`, and each lies in the program memory (00_scope.md R14). -/
def State.Fetches (s : State) (i : Instr) : Prop :=
  (∃ rest, decode s.build.hasLong s.codeBytes = .ok (i, rest)) ∧
    ∀ k, k < (encode i).length → (s.pcAt k).toNat < s.build.progSize

/-- When a step from `s` raises a fault: the first byte of the instruction at the PC that lies beyond
the program memory; a reserved first byte; the direct address of the fetched instruction, if it is
reserved; the first of its RAM accesses that lies beyond the RAM (60_exceptions.md R193). -/
def Fault.RaisedIn (s : State) : Fault → Prop
  | .fetchOutsideProgram a =>
    ∃ k, a = s.pcAt k ∧ s.build.progSize ≤ a.toNat ∧
      (∀ j, j < k → (s.pcAt j).toNat < s.build.progSize) ∧
      k < instrLength s.build.hasLong (s.prog.read s.pc.toNat)
  | .reservedOpcode b1 =>
    s.pc.toNat < s.build.progSize ∧ b1 = s.prog.read s.pc.toNat ∧
      reservedByte s.build.hasLong b1 = true
  | .reservedDirect a =>
    ∃ i, s.Fetches i ∧ directAddress i = some a ∧ 0xF0 ≤ a.toNat ∧ a.toNat ≤ 0xFD
  | .outsideRam a =>
    ∃ i, s.Fetches i ∧
      (ramAccesses s i).find? (fun c => decide (s.build.ramSize ≤ c.toNat)) = some a

end Sys2Proof.Machine
end

