-- ==== Sys2Proof/Certificates/Slice0/Obligations.lean ====
section
/-! DEFINITION. The statements for the provers. `exec i s` is stated of a state `s` whose `pc` already
points at the next instruction (spec 00_scope.md R14); the statement `StepRunsDecodedInstruction`
ties it to a step. -/

open Sys2Proof Sys2Proof.Machine

/-! ## Encoding and decoding -/

/-- Every well-formed instruction, with every operand, is what its own encoding decodes to, and the
bytes after it are left (30_encoding.md R90, R93, R104). -/
def Obligations.DecodeOfEncode : Prop :=
  ∀ (long : Bool) (i : Instr) (rest : List Byte),
    i.wf long = true → decode long (encode i ++ rest) = .ok (i, rest)

/-- Whatever decodes is well-formed and was encoded by the bytes it was decoded from: no bit of an
instruction is dropped (30_encoding.md R90, R104). -/
def Obligations.EncodeOfDecode : Prop :=
  ∀ (long : Bool) (bytes : List Byte) (i : Instr) (rest : List Byte),
    decode long bytes = .ok (i, rest) → i.wf long = true ∧ encode i ++ rest = bytes

/-- The reserved first bytes are exactly those of R106, 49 with LJMP and LCALL and 51 without. -/
def Obligations.ReservedCodesComplete : Prop :=
  (∀ (long : Bool) (b1 b2 b3 : Byte),
    isReserved (decodeOp long b1 b2 b3) = reservedByte long b1) ∧
  ((List.range 256).filter (fun n => reservedByte true (BitVec.ofNat 8 n))).length = 49 ∧
  ((List.range 256).filter (fun n => reservedByte false (BitVec.ofNat 8 n))).length = 51

/-- Cells of the matrix that settle the order of the fields decode as it shows them
(30_encoding.md R115). -/
def Obligations.MatrixCellsDecode : Prop :=
  decode false [0b00000001] = .ok (.movRegReg .r1 .r0, []) ∧
  decode false [0b00000100] = .ok (.movRegReg .r0 .r1, []) ∧
  decode false [0b00010100] = .ok (.movRegInd .r0 .r1, []) ∧
  decode false [0b10010001] = .ok (.movIndReg .r0 .r1, []) ∧
  decode false [0b10010100] = .ok (.movIndReg .r1 .r0, []) ∧
  decode false [0b10100010, 0x34] = .ok (.jmp 0x234, []) ∧
  decode false [0b10101010, 0x80] = .ok (.jf .z 0x80, []) ∧
  decode true [0b10110100, 0xCD, 0xAB] = .ok (.lcall 0xABCD, []) ∧
  decode false [0b11011100] = .ok (.cplReg .r0, []) ∧
  decode false [0b11101000] = .ok (.cplFlag .c, []) ∧
  decode false [0b11110011] = .ok (.wait .t3, [])

/-! ## The step -/

/-- When the bytes at the PC decode to an instruction and lie in program memory, a step is that
instruction executed with the PC moved past its bytes (00_scope.md R14). -/
def Obligations.StepRunsDecodedInstruction : Prop :=
  ∀ (s : State) (i : Instr) (rest : List Byte), s.waiting = none →
    decode s.build.hasLong s.codeBytes = .ok (i, rest) →
    (∀ k, k < (encode i).length → (s.pcAt k).toNat < s.build.progSize) →
    step s = exec i { s with pc := s.pcAt (encode i).length }

/-- A processor held in a WAIT asks its input again and changes nothing else: at 1 the WAIT is
complete, at 0 it stays held (46_wait.md R187). The held state as a field and one step for each
sampling are the model's choice among the forms R187 allows (log 16), and so are the answers ready
and the count of samplings (log 15). -/
def Obligations.HeldStepSamplesAgain : Prop :=
  ∀ (s : State) (p : TestPin), s.waiting = some p →
    step s = .next { s with
      waiting := if s.testAnswer p = true then none else some p
      testAnswers := s.testAnswers.tail
      samples := s.samples + 1 }

/-- However many times the environment answers 0, the WAIT is complete at the first 1, with the
processor's state as it was (46_wait.md R185, R187). That `n` zeros and a one take exactly `n + 1`
steps, the answers standing in a list, is the model's choice (logs 15 and 16). -/
def Obligations.HeldUntilInputIsOne : Prop :=
  ∀ (n : Nat) (s : State) (p : TestPin) (later : List Bool), s.waiting = some p →
    s.testAnswers = List.replicate n false ++ true :: later →
    Host.Core.run Sys2Proof.core (n + 1) s =
      .next { s with waiting := none, testAnswers := later, samples := s.samples + (n + 1) }

/-- A fetch whose first, second or third byte lies beyond the program memory stops the model at that
byte (20_memory.md R72; 60_exceptions.md R193; D1: the spec's own choice; log 10). -/
def Obligations.FetchOutsideProgramStops : Prop :=
  ∀ s : State, s.waiting = none →
    (s.build.progSize ≤ s.pc.toNat → step s = .fault (.fetchOutsideProgram s.pc)) ∧
    (s.pc.toNat < s.build.progSize → s.build.progSize ≤ (s.pcAt 1).toNat →
      2 ≤ instrLength s.build.hasLong (s.prog.read s.pc.toNat) →
      step s = .fault (.fetchOutsideProgram (s.pcAt 1))) ∧
    (s.pc.toNat < s.build.progSize → (s.pcAt 1).toNat < s.build.progSize →
      s.build.progSize ≤ (s.pcAt 2).toNat →
      instrLength s.build.hasLong (s.prog.read s.pc.toNat) = 3 →
      step s = .fault (.fetchOutsideProgram (s.pcAt 2)))

/-- A reserved first byte stops the model whatever follows it, even where nothing can be fetched after
it (30_encoding.md R107, D6: the spec's own choice; log 8). -/
def Obligations.ReservedFirstByteStops : Prop :=
  ∀ s : State, s.waiting = none → s.pc.toNat < s.build.progSize →
    reservedByte s.build.hasLong (s.prog.read s.pc.toNat) = true →
    step s = .fault (.reservedOpcode (s.prog.read s.pc.toNat))

/-- No step is refused, and a step stops with a fault exactly when R193 says it is raised: for the first
instruction byte beyond the program memory, for the reserved first byte at the PC, for the reserved
direct address of the fetched instruction, or for the first of its RAM accesses beyond the RAM
(60_exceptions.md R192, R193). That these four points stop the model is the spec's own choice (D1, D2,
D6, D7; logs 8 to 10). -/
def Obligations.FaultsHaveTheirCauses : Prop :=
  ∀ s : State, (∀ r, step s ≠ .refused r) ∧
    ∀ f, step s = .fault f ↔ s.waiting = none ∧ f.RaisedIn s

/-- With program memory and RAM of full size only a reserved first byte and a reserved direct address
stop the model (60_exceptions.md R193). Which faults there are is the spec's own choice (D1, D2, D6,
D7; logs 8 to 10). -/
def Obligations.FullSizeBuildFaults : Prop :=
  ∀ (s : State) (f : Fault), s.PcFits → s.FullSize → step s = .fault f →
    (∃ b1, f = .reservedOpcode b1) ∨ ∃ a, f = .reservedDirect a

/-- A step keeps the program memory, which is a ROM (10_state.md R31; 20_memory.md R69), and the build:
its parameters are fixed for a processor (00_scope.md R4), and that they are data of the state is
the model's choice (log 5). -/
def Obligations.StepKeepsProgramAndBuild : Prop :=
  ∀ s t : State, step s = .next t → t.prog = s.prog ∧ t.build = s.build

/-- A step makes at most one action on the input/output bus, a read (01) or a write (10), never both;
what was recorded before stays (20_memory.md R59 to R62). -/
def Obligations.StepMakesAtMostOneAction : Prop :=
  ∀ s t : State, step s = .next t → ∃ made : List IoEvent,
    t.trace = s.trace ++ made ∧ made.length ≤ 1 ∧
      ∀ e ∈ made, e.cycle.ioctl = 0b01 ∨ e.cycle.ioctl = 0b10

/-- The invariant is kept by every step, in every build (10_state.md R23, R31, R32). -/
def Obligations.StepKeepsInvariant : Prop :=
  ∀ s t : State, s.Inv → step s = .next t → t.Inv

/-- The reset state has the invariant. -/
def Obligations.ResetHasInvariant : Prop := State.reset.Inv

/-- Whatever the builder's choices, the PC and the PSW are 0 after start-up, no WAIT is pending and
no action has happened; the reset state is such a state (10_state.md R37). That its registers and
SP are 0 and its memories empty is the model's choice (logs 1 to 5) and not stated. -/
def Obligations.StartUpClearsPcAndPsw : Prop :=
  (∀ (b : Build) (prog ram : Memory) (x0 x1 x2 x3 sp : Byte) (io : List Byte) (ti : List Bool),
    (State.startUp b prog x0 x1 x2 x3 sp ram io ti).IsStartUp) ∧ State.reset.IsStartUp

/-- A JMP to its own address is a finished run: the step leaves the whole state unchanged
(70_reset_and_hazards.md R227, D13). With a 16-bit PC the page is that of the next instruction. -/
def Obligations.SelfJumpIsFinished : Prop :=
  ∀ s : State, s.PcFits → s.waiting = none →
    s.pc.toNat < s.build.progSize → (s.pcAt 1).toNat < s.build.progSize →
    [s.prog.read s.pc.toNat, s.prog.read (s.pcAt 1).toNat] = encode (.jmp (s.pc.extractLsb' 0 10)) →
    (s.build.pcWidth = .bits16 → (s.pcAt 2).extractLsb' 10 6 = s.pc.extractLsb' 10 6) →
    s.Finished

/-- `withFetchWord` places an instruction where the very next step runs it (the model's own; log 4). -/
def Obligations.FetchWordRunsNext : Prop :=
  ∀ (s : State) (nbits w : Nat) (i : Instr), s.prog.wf → decodeTableWord nbits w = some i →
    step (s.withFetchWord nbits w) =
      exec i { s.withFetchWord nbits w with
        pc := (s.withFetchWord nbits w).pcAt (encode i).length }

/-! ## MOV and NOP -/

/-- NOP is `MOV R0,R0`, is encoded 00h and changes nothing (40_mov.md R127; the advance of the PC is
the fetch's). -/
def Obligations.NopChangesNothing : Prop :=
  encode .nop = [0b00000000] ∧
  ∀ s : State, exec .nop s = .next s ∧ exec .nop s = exec (.movRegReg .r0 .r0) s

/-- The four MOV forms with a register destination copy the byte their operand delivers into Rd and
change nothing else, no flag among it, but for the one read action of a port address
(40_mov.md R120 to R124; 20_memory.md R56, R58, R60). -/
def Obligations.MovCopiesOperand : Prop :=
  ∀ (rd : Reg) (o : Operand) (s : State) (v : Byte), o.Delivers s v →
    ∃ t, exec (movOf rd o) s = .next t ∧ t.reg rd = v ∧ KeepsRegs s t [rd] ∧ t.psw = s.psw ∧
      t.sp = s.sp ∧ t.pc = s.pc ∧ KeepsRam s t [] ∧ KeepsConstants s t ∧ o.EnvAfter s t v

/-- `MOV @Ri,Rs` stores Rs in the RAM byte Ri points at, also at 0E0h..0FFh, and changes nothing else
(40_mov.md R125; 20_memory.md R58). -/
def Obligations.MovIndirectStores : Prop :=
  ∀ (ri : Pointer) (rs : Reg) (s : State), s.ram.wf →
    (s.pointer ri).toNat < s.build.ramSize →
    ∃ t, exec (.movIndReg ri rs) s = .next t ∧ t.ramByte (s.pointer ri) = s.reg rs ∧
      KeepsRam s t [s.pointer ri] ∧ KeepsRegs s t [] ∧ t.psw = s.psw ∧ t.sp = s.sp ∧
      t.pc = s.pc ∧ KeepsConstants s t ∧ KeepsEnv s t

/-- `MOV dir,Rs` writes RAM below 0E0h, makes one write action at 0E0h..0EFh, sets SP at 0FEh and the
whole PSW at 0FFh; in each case nothing else changes (40_mov.md R126; 20_memory.md R57, R61). -/
def Obligations.MovDirectWrites : Prop :=
  ∀ (a : Byte) (rs : Reg) (s : State),
    (a.toNat ≤ 0xDF → a.toNat < s.build.ramSize → s.ram.wf →
      ∃ t, exec (.movDirReg a rs) s = .next t ∧ t.ramByte a = s.reg rs ∧ KeepsRam s t [a] ∧
        KeepsRegs s t [] ∧ t.psw = s.psw ∧ t.sp = s.sp ∧ t.pc = s.pc ∧ KeepsConstants s t ∧
        KeepsEnv s t) ∧
    (0xE0 ≤ a.toNat → a.toNat ≤ 0xEF →
      exec (.movDirReg a rs) s =
        .next { s with
          trace := s.trace ++ [.write (BitVec.ofNat 4 (a.toNat - 0xE0)) (s.reg rs)] }) ∧
    (a.toNat = 0xFE → exec (.movDirReg a rs) s = .next { s with sp := s.reg rs }) ∧
    (a.toNat = 0xFF → exec (.movDirReg a rs) s = .next { s with psw := s.reg rs })

/-- The pins of the parallel output port show the byte last written to 0E5h: nothing known before the
first write, the new byte after `MOV 0E5h,Rs`, and what they showed before after every other
instruction, other port actions among them, and while the processor is held in a WAIT
(60_exceptions.md R199). That they keep the byte is G5, general knowledge (log 17). -/
def Obligations.OutputPortShowsLastWrite : Prop :=
  outputPins [] = none ∧
  (∀ (rs : Reg) (s : State), ∃ t, exec (.movDirReg 0xE5 rs) s = .next t ∧
    outputPins t.trace = some (s.reg rs)) ∧
  (∀ (i : Instr) (s t : State), (∀ rs, i ≠ .movDirReg 0xE5 rs) → exec i s = .next t →
    outputPins t.trace = outputPins s.trace) ∧
  (∀ (s t : State) (p : TestPin), s.waiting = some p → step s = .next t →
    outputPins t.trace = outputPins s.trace)

/-- A direct access to 0F0h..0FDh stops the model, for each of the five `dir` instructions
(20_memory.md R63, D7: the spec's own choice; log 9). -/
def Obligations.ReservedDirectStops : Prop :=
  ∀ (a : Byte) (r : Reg) (s : State), 0xF0 ≤ a.toNat → a.toNat ≤ 0xFD →
    exec (.movRegDir r a) s = .fault (.reservedDirect a) ∧
    exec (.anlRegDir r a) s = .fault (.reservedDirect a) ∧
    exec (.addRegDir r a) s = .fault (.reservedDirect a) ∧
    exec (.subRegDir r a) s = .fault (.reservedDirect a) ∧
    exec (.movDirReg a r) s = .fault (.reservedDirect a)

/-- A RAM access beyond the RAM that is built stops the model: direct below 0E0h, indirect, and each
access of the stack, the second push of CALL and LCALL and the second pop of RET among them
(20_memory.md R72; 42_control.md R155 to R157; D2: the spec's own choice; log 10). -/
def Obligations.OutsideRamStops : Prop :=
  ∀ (s : State) (r : Reg) (ri : Pointer) (a : Byte),
    (s.build.ramSize ≤ a.toNat → a.toNat ≤ 0xDF →
      exec (.movRegDir r a) s = .fault (.outsideRam a) ∧
      exec (.anlRegDir r a) s = .fault (.outsideRam a) ∧
      exec (.addRegDir r a) s = .fault (.outsideRam a) ∧
      exec (.subRegDir r a) s = .fault (.outsideRam a) ∧
      exec (.movDirReg a r) s = .fault (.outsideRam a)) ∧
    (s.build.ramSize ≤ (s.pointer ri).toNat →
      exec (.movRegInd r ri) s = .fault (.outsideRam (s.pointer ri)) ∧
      exec (.anlRegInd r ri) s = .fault (.outsideRam (s.pointer ri)) ∧
      exec (.addRegInd r ri) s = .fault (.outsideRam (s.pointer ri)) ∧
      exec (.subRegInd r ri) s = .fault (.outsideRam (s.pointer ri)) ∧
      exec (.movIndReg ri r) s = .fault (.outsideRam (s.pointer ri))) ∧
    (s.build.ramSize ≤ (s.sp + 1).toNat →
      exec (.push r) s = .fault (.outsideRam (s.sp + 1)) ∧
      (∀ adr10, exec (.call adr10) s = .fault (.outsideRam (s.sp + 1))) ∧
      (s.build.hasLong = true →
        ∀ adr16, exec (.lcall adr16) s = .fault (.outsideRam (s.sp + 1)))) ∧
    ((s.sp + 1).toNat < s.build.ramSize → s.build.ramSize ≤ (s.sp + 2).toNat →
      (∀ adr10, exec (.call adr10) s = .fault (.outsideRam (s.sp + 2))) ∧
      (s.build.hasLong = true →
        ∀ adr16, exec (.lcall adr16) s = .fault (.outsideRam (s.sp + 2)))) ∧
    (s.build.ramSize ≤ s.sp.toNat →
      exec (.pop r) s = .fault (.outsideRam s.sp) ∧ exec .ret s = .fault (.outsideRam s.sp)) ∧
    (s.sp.toNat < s.build.ramSize → s.build.ramSize ≤ (s.sp - 1).toNat →
      exec .ret s = .fault (.outsideRam (s.sp - 1)))

/-! ## ANL, ADD and SUB -/

/-- The four ANL forms: Rd becomes the bitwise AND of the old Rd and the operand, Z and S are set from
the result, C, V and PSW bits 4..7 and all else stay (41_alu.md R130, R133 to R137; Z and S by D11,
log 13). -/
def Obligations.AnlAndsIntoRegister : Prop :=
  ∀ (rd : Reg) (o : Operand) (s : State) (v : Byte), o.Delivers s v →
    ∃ t, exec (anlOf rd o) s = .next t ∧
      (∀ n, n < 8 → (t.reg rd).getLsbD n = ((s.reg rd).getLsbD n && v.getLsbD n)) ∧
      (t.flag .z = true ↔ t.reg rd = 0) ∧ t.flag .s = (t.reg rd).getLsbD 7 ∧
      KeepsFlags s t [.z, .s] ∧ KeepsRegs s t [rd] ∧ t.sp = s.sp ∧ t.pc = s.pc ∧
      KeepsRam s t [] ∧ KeepsConstants s t ∧ o.EnvAfter s t v

/-- The four ADD forms: Rd becomes the sum modulo 256, C the carry out of bit 7, V says that the signed
sum lies outside -128..127, Z and S are set from the result, all else stays (41_alu.md R130, R131,
R138 to R141; the flags by D11, log 13). -/
def Obligations.AddSumsIntoRegister : Prop :=
  ∀ (rd : Reg) (o : Operand) (s : State) (v : Byte), o.Delivers s v →
    ∃ t, exec (addOf rd o) s = .next t ∧
      (t.reg rd).toNat = ((s.reg rd).toNat + v.toNat) % 256 ∧
      (t.flag .c = true ↔ 256 ≤ (s.reg rd).toNat + v.toNat) ∧
      (t.flag .v = true ↔
        (s.reg rd).toInt + v.toInt < -128 ∨ 127 < (s.reg rd).toInt + v.toInt) ∧
      (t.flag .z = true ↔ t.reg rd = 0) ∧ t.flag .s = (t.reg rd).getLsbD 7 ∧
      KeepsFlags s t [.c, .v, .z, .s] ∧ KeepsRegs s t [rd] ∧ t.sp = s.sp ∧ t.pc = s.pc ∧
      KeepsRam s t [] ∧ KeepsConstants s t ∧ o.EnvAfter s t v

/-- The four SUB forms: Rd becomes the difference modulo 256, C the borrow, V says that the signed
difference lies outside -128..127, Z and S are set from the result, all else stays (41_alu.md
R130, R132, R142 to R145; V, Z and S by D11, log 13). -/
def Obligations.SubSubtractsFromRegister : Prop :=
  ∀ (rd : Reg) (o : Operand) (s : State) (v : Byte), o.Delivers s v →
    ∃ t, exec (subOf rd o) s = .next t ∧
      (t.reg rd).toNat = (256 + (s.reg rd).toNat - v.toNat) % 256 ∧
      (t.flag .c = true ↔ (s.reg rd).toNat < v.toNat) ∧
      (t.flag .v = true ↔
        (s.reg rd).toInt - v.toInt < -128 ∨ 127 < (s.reg rd).toInt - v.toInt) ∧
      (t.flag .z = true ↔ t.reg rd = 0) ∧ t.flag .s = (t.reg rd).getLsbD 7 ∧
      KeepsFlags s t [.c, .v, .z, .s] ∧ KeepsRegs s t [rd] ∧ t.sp = s.sp ∧ t.pc = s.pc ∧
      KeepsRam s t [] ∧ KeepsConstants s t ∧ o.EnvAfter s t v

/-- After SUB the flags compare the old Rd with the operand: Z equal, C below as unsigned, S xor V less
as signed (41_alu.md R132, the spec's own derivation). -/
def Obligations.SubComparesOperands : Prop :=
  ∀ (rd : Reg) (o : Operand) (s t : State) (v : Byte), o.Delivers s v →
    exec (subOf rd o) s = .next t →
    (t.flag .z = true ↔ s.reg rd = v) ∧ (t.flag .c = true ↔ (s.reg rd).toNat < v.toNat) ∧
      ((t.flag .s ^^ t.flag .v) = true ↔ (s.reg rd).toInt < v.toInt)

/-! ## The one-register operations -/

/-- INC and DEC change Rd by 1 modulo 256 and set Z from the result; C, V, S and all else stay
(44_unary.md R170, R171; Z by D11, log 13). -/
def Obligations.IncDecStepRegister : Prop :=
  ∀ (rd : Reg) (s : State),
    (∃ t, exec (.inc rd) s = .next t ∧ (t.reg rd).toNat = ((s.reg rd).toNat + 1) % 256 ∧
      (t.flag .z = true ↔ t.reg rd = 0) ∧ KeepsFlags s t [.z] ∧ KeepsRegs s t [rd] ∧
      t.sp = s.sp ∧ t.pc = s.pc ∧ KeepsRam s t [] ∧ KeepsConstants s t ∧ KeepsEnv s t) ∧
    (∃ t, exec (.dec rd) s = .next t ∧ (t.reg rd).toNat = ((s.reg rd).toNat + 255) % 256 ∧
      (t.flag .z = true ↔ t.reg rd = 0) ∧ KeepsFlags s t [.z] ∧ KeepsRegs s t [rd] ∧
      t.sp = s.sp ∧ t.pc = s.pc ∧ KeepsRam s t [] ∧ KeepsConstants s t ∧ KeepsEnv s t)

/-- `SRL Rd`: the unsigned half rounded down, C the old bit 0; no other flag and nothing else changes
(44_unary.md R172). -/
def Obligations.SrlHalvesUnsigned : Prop :=
  ∀ (rd : Reg) (s : State), encode (.srl rd) = [0b110100#6 ++ rd.code] ∧
    ∃ t, exec (.srl rd) s = .next t ∧ (t.reg rd).toNat = (s.reg rd).toNat / 2 ∧
      t.flag .c = (s.reg rd).getLsbD 0 ∧ KeepsFlags s t [.c] ∧ KeepsRegs s t [rd] ∧
      t.sp = s.sp ∧ t.pc = s.pc ∧ KeepsRam s t [] ∧ KeepsConstants s t ∧ KeepsEnv s t

/-- `SRA Rd`: the signed half rounded toward minus infinity, bit 7 keeping its value, C the old bit 0;
no other flag and nothing else changes (44_unary.md R173). -/
def Obligations.SraHalvesSigned : Prop :=
  ∀ (rd : Reg) (s : State), encode (.sra rd) = [0b110101#6 ++ rd.code] ∧
    ∃ t, exec (.sra rd) s = .next t ∧ (t.reg rd).toInt = (s.reg rd).toInt.fdiv 2 ∧
      (t.reg rd).getLsbD 7 = (s.reg rd).getLsbD 7 ∧
      t.flag .c = (s.reg rd).getLsbD 0 ∧ KeepsFlags s t [.c] ∧ KeepsRegs s t [rd] ∧
      t.sp = s.sp ∧ t.pc = s.pc ∧ KeepsRam s t [] ∧ KeepsConstants s t ∧ KeepsEnv s t

/-- `RRC Rd`: bits 1..7 move down, the old C goes to bit 7 and the old bit 0 to C; no other flag and
nothing else changes (44_unary.md R174). -/
def Obligations.RrcRotatesThroughCarry : Prop :=
  ∀ (rd : Reg) (s : State), encode (.rrc rd) = [0b110110#6 ++ rd.code] ∧
    ∃ t, exec (.rrc rd) s = .next t ∧
      (∀ n, n < 7 → (t.reg rd).getLsbD n = (s.reg rd).getLsbD (n + 1)) ∧
      (t.reg rd).getLsbD 7 = s.flag .c ∧
      t.flag .c = (s.reg rd).getLsbD 0 ∧ KeepsFlags s t [.c] ∧ KeepsRegs s t [rd] ∧
      t.sp = s.sp ∧ t.pc = s.pc ∧ KeepsRam s t [] ∧ KeepsConstants s t ∧ KeepsEnv s t

/-- Nine RRCs of one register restore the whole state (44_unary.md R174). -/
def Obligations.NineRrcsRestoreState : Prop :=
  ∀ (rd : Reg) (s : State), execTimes (.rrc rd) 9 s = .next s

/-- `CPL Rd` complements every bit of Rd and changes no flag and nothing else (44_unary.md R175). -/
def Obligations.CplComplementsRegister : Prop :=
  ∀ (rd : Reg) (s : State), encode (.cplReg rd) = [0b110111#6 ++ rd.code] ∧
    ∃ t, exec (.cplReg rd) s = .next t ∧ (t.reg rd).toNat = 255 - (s.reg rd).toNat ∧
      KeepsRegs s t [rd] ∧ t.psw = s.psw ∧
      t.sp = s.sp ∧ t.pc = s.pc ∧ KeepsRam s t [] ∧ KeepsConstants s t ∧ KeepsEnv s t

/-! ## The flag operations -/

/-- CLR, SETB and CPL of a flag write exactly the named flag; the three others, PSW bits 4..7 and the
rest of the state stay (45_flags.md R180 to R182). -/
def Obligations.FlagOperationsWriteOneFlag : Prop :=
  ∀ (f : FlagName) (s : State),
    encode (.clr f) = [0b111000#6 ++ f.code] ∧ encode (.setb f) = [0b111001#6 ++ f.code] ∧
    encode (.cplFlag f) = [0b111010#6 ++ f.code] ∧
    (∃ t, exec (.clr f) s = .next t ∧ t.flag f = false ∧ KeepsFlags s t [f] ∧
      t = { s with psw := t.psw }) ∧
    (∃ t, exec (.setb f) s = .next t ∧ t.flag f = true ∧ KeepsFlags s t [f] ∧
      t = { s with psw := t.psw }) ∧
    (∃ t, exec (.cplFlag f) s = .next t ∧ t.flag f = !s.flag f ∧ KeepsFlags s t [f] ∧
      t = { s with psw := t.psw })

/-! ## Control transfer -/

/-- `JMP adr10` loads the low ten bits of the PC and keeps the others, which a 10-bit PC has not; all
else stays (42_control.md R151). -/
def Obligations.JmpLoadsTenBits : Prop :=
  ∀ (a : BitVec 10) (s : State),
    encode (.jmp a) = [0b101000#6 ++ a.extractLsb' 8 2, a.extractLsb' 0 8] ∧
    ∃ t, exec (.jmp a) s = .next t ∧ t = { s with pc := t.pc } ∧
      (s.build.pcWidth = .bits10 → t.pc.toNat = a.toNat) ∧
      (s.build.pcWidth = .bits16 → t.pc.toNat = s.pc.toNat / 1024 * 1024 + a.toNat)

/-- `LJMP adr16` loads the whole 16-bit PC where the build has it; where it has not, its first byte is
reserved and the model stops (42_control.md R152; the stop by D6, log 8). -/
def Obligations.LjmpLoadsSixteenBits : Prop :=
  ∀ (a : BitVec 16) (s : State), s.build.wf →
    (s.build.hasLong = true → exec (.ljmp a) s = .next { s with pc := a }) ∧
    (s.build.hasLong = false → exec (.ljmp a) s = .fault (.reservedOpcode 0xA4))

/-- JF jumps when the flag is 0 and JT when it is 1, each to the low byte it carries in the 256-byte
page of the next instruction; otherwise nothing happens; all else stays (42_control.md R153,
R154). -/
def Obligations.ConditionalJumpsTestOneFlag : Prop :=
  ∀ (f : FlagName) (a : Byte) (s : State), s.PcFits →
    encode (.jf f a) = [0b101010#6 ++ f.code, a] ∧ encode (.jt f a) = [0b101011#6 ++ f.code, a] ∧
    (∃ t, exec (.jf f a) s = .next t ∧ t = { s with pc := t.pc } ∧
      t.pc.toNat = if s.flag f = false then s.pc.toNat / 256 * 256 + a.toNat else s.pc.toNat) ∧
    (∃ t, exec (.jt f a) s = .next t ∧ t = { s with pc := t.pc } ∧
      t.pc.toNat = if s.flag f = true then s.pc.toNat / 256 * 256 + a.toNat else s.pc.toNat)

/-- `CALL adr10` pushes the address of the next instruction, low byte at the lower address, raises SP
by 2 and jumps as JMP does; all else stays (42_control.md R155; SP modulo 256 by D5, log 7). -/
def Obligations.CallPushesReturnAddress : Prop :=
  ∀ (a : BitVec 10) (s : State), s.ram.wf → s.PcFits →
    (s.sp + 1).toNat < s.build.ramSize → (s.sp + 2).toNat < s.build.ramSize →
    ∃ t, exec (.call a) s = .next t ∧ t.sp = s.sp + 2 ∧
      (t.ramByte (s.sp + 1)).toNat = s.pc.toNat % 256 ∧
      (t.ramByte (s.sp + 2)).toNat = s.pc.toNat / 256 ∧
      KeepsRam s t [s.sp + 1, s.sp + 2] ∧
      (s.build.pcWidth = .bits10 → t.pc.toNat = a.toNat) ∧
      (s.build.pcWidth = .bits16 → t.pc.toNat = s.pc.toNat / 1024 * 1024 + a.toNat) ∧
      KeepsRegs s t [] ∧ t.psw = s.psw ∧ KeepsConstants s t ∧ KeepsEnv s t

/-- `LCALL adr16` pushes the same two bytes and loads the whole PC, where the build has it; where it
has not, its first byte is reserved and the model stops (42_control.md R156; D5, D6, logs 7, 8). -/
def Obligations.LcallPushesReturnAddress : Prop :=
  ∀ (a : BitVec 16) (s : State), s.build.wf → s.ram.wf →
    (s.build.hasLong = true →
      (s.sp + 1).toNat < s.build.ramSize → (s.sp + 2).toNat < s.build.ramSize →
      ∃ t, exec (.lcall a) s = .next t ∧ t.sp = s.sp + 2 ∧
        (t.ramByte (s.sp + 1)).toNat = s.pc.toNat % 256 ∧
        (t.ramByte (s.sp + 2)).toNat = s.pc.toNat / 256 ∧
        KeepsRam s t [s.sp + 1, s.sp + 2] ∧ t.pc = a ∧
        KeepsRegs s t [] ∧ t.psw = s.psw ∧ KeepsConstants s t ∧ KeepsEnv s t) ∧
    (s.build.hasLong = false → exec (.lcall a) s = .fault (.reservedOpcode 0xB4))

/-- RET loads the PC from the two bytes on top of the stack, the high byte on top, keeps as many bits
as the PC has and lowers SP by 2; all else stays (42_control.md R157; D5, D8, logs 7, 12). -/
def Obligations.RetLoadsPcFromStack : Prop :=
  ∀ s : State, s.sp.toNat < s.build.ramSize → (s.sp - 1).toNat < s.build.ramSize →
    ∃ t, exec .ret s = .next t ∧ t = { s with pc := t.pc, sp := s.sp - 2 } ∧
      t.pc.toNat = ((s.ramByte s.sp).toNat * 256 + (s.ramByte (s.sp - 1)).toNat) %
        2 ^ s.build.pcWidth.bits

/-- A RET after a CALL or LCALL, wherever it stands, goes on at the instruction after the call with SP
as it was (42_control.md R155 to R157). -/
def Obligations.RetUndoesCall : Prop :=
  ∀ (s t : State) (p : ProgAddr), s.ram.wf → s.PcFits →
    ((∃ a, exec (.call a) s = .next t) ∨ ∃ a, exec (.lcall a) s = .next t) →
    exec .ret { t with pc := p } = .next { s with ram := t.ram }

/-! ## The stack -/

/-- `PUSH Rs` raises SP by 1 and stores Rs where it then points, always in RAM; all else stays
(43_stack.md R165; D5, log 7). -/
def Obligations.PushStoresRegister : Prop :=
  ∀ (rs : Reg) (s : State), s.ram.wf → (s.sp + 1).toNat < s.build.ramSize →
    ∃ t, exec (.push rs) s = .next t ∧ t.sp = s.sp + 1 ∧ t.ramByte (s.sp + 1) = s.reg rs ∧
      KeepsRam s t [s.sp + 1] ∧ KeepsRegs s t [] ∧ t.psw = s.psw ∧ t.pc = s.pc ∧
      KeepsConstants s t ∧ KeepsEnv s t

/-- `POP Rd` loads Rd from where SP points, always from RAM, and lowers SP by 1; no flag and nothing
else changes (43_stack.md R166; D5, log 7). -/
def Obligations.PopLoadsRegister : Prop :=
  ∀ (rd : Reg) (s : State), s.sp.toNat < s.build.ramSize →
    ∃ t, exec (.pop rd) s = .next t ∧ t.reg rd = s.ramByte s.sp ∧ t.sp = s.sp - 1 ∧
      KeepsRegs s t [rd] ∧ KeepsRam s t [] ∧ t.psw = s.psw ∧ t.pc = s.pc ∧
      KeepsConstants s t ∧ KeepsEnv s t

/-- A PUSH followed by a POP copies a register through the stack and restores SP (43_stack.md R165 to
R167). -/
def Obligations.PopUndoesPush : Prop :=
  ∀ (rs rd : Reg) (s t : State), s.ram.wf → exec (.push rs) s = .next t →
    ∃ u, exec (.pop rd) t = .next u ∧ u.reg rd = s.reg rs ∧ u.sp = s.sp ∧
      KeepsRegs s u [rd] ∧ u.psw = s.psw ∧ u.ram = t.ram

/-! ## WAIT and the reserved codes -/

/-- `WAIT t` looks at its input once: at 1 nothing changes, at 0 the processor is held, with the PC at
the next instruction either way (46_wait.md R185, R187; log 16). -/
def Obligations.WaitSamplesItsInput : Prop :=
  ∀ (p : TestPin) (s : State),
    exec (.wait p) s = .next { s with
      waiting := if s.testAnswer p = true then none else some p
      testAnswers := s.testAnswers.tail
      samples := s.samples + 1 }

/-- Each of the ten reserved rows is one byte long and stops the model with that byte
(30_encoding.md R106, R107, D6: the spec's own choice; log 8). -/
def Obligations.ReservedRowsStop : Prop :=
  ∀ (i : Instr) (s : State), isReserved i = true →
    ∃ b1, encode i = [b1] ∧ exec i s = .fault (.reservedOpcode b1)

/-! ## Rules over all instructions -/

/-- No instruction reads the program memory as data and none writes it: with any other program the same
instruction does the same (20_memory.md R52). -/
def Obligations.ProgramMemoryIsNotData : Prop :=
  ∀ (i : Instr) (s : State) (p : Memory),
    exec i { s with prog := p } = onNext (fun t => { t with prog := p }) (exec i s)

/-- PSW bits 4..7 are stored: a write of the whole PSW stores all eight bits and a read returns them;
no other instruction changes them; they have no effect on an instruction that does not name the
PSW (10_state.md R26). That they affect nothing and that a nonzero write does not stop the model is
the spec's own decision (D19; log 19). -/
def Obligations.PswReservedBitsAreInert : Prop :=
  (∀ (s : State) (rs rd : Reg),
    exec (.movDirReg 0xFF rs) s = .next { s with psw := s.reg rs } ∧
    ∃ t, exec (.movRegDir rd 0xFF) s = .next t ∧ t.reg rd = s.psw) ∧
  (∀ (i : Instr) (s t : State), (∀ rs, i ≠ .movDirReg 0xFF rs) → exec i s = .next t →
    t.psw.extractLsb' 4 4 = s.psw.extractLsb' 4 4) ∧
  (∀ (i : Instr) (s : State) (h : BitVec 4), (∀ rs, i ≠ .movDirReg 0xFF rs) →
    directSource i ≠ some 0xFF →
    exec i { s with psw := h ++ s.psw.extractLsb' 0 4 } =
      onNext (fun t => { t with psw := h ++ t.psw.extractLsb' 0 4 }) (exec i s))

/-- An instruction changes no flag but those the spec's table gives it (10_state.md R28). -/
def Obligations.OnlyListedFlagsChange : Prop :=
  ∀ (i : Instr) (s t : State) (f : FlagName), exec i s = .next t → f ∉ flagsWritten i →
    t.flag f = s.flag f

/-- An instruction changes no work register but its destination (10_state.md R20, R21). -/
def Obligations.OnlyDestinationRegisterChanges : Prop :=
  ∀ (i : Instr) (s t : State), exec i s = .next t → KeepsRegs s t (regsWritten i)

/-- Only the seven control transfers change the PC beyond the advance of the fetch
(10_state.md R24). -/
def Obligations.OnlyControlTransfersChangePc : Prop :=
  ∀ (i : Instr) (s t : State), exec i s = .next t → writesPc i = false → t.pc = s.pc

/-- SP after every instruction: raised by PUSH, CALL and LCALL, lowered by POP and RET, loaded by
`MOV SP,Rs`, unchanged by all else (10_state.md R29, R30; modulo 256 by D5, log 7). -/
def Obligations.StackPointerAfterInstruction : Prop :=
  ∀ (i : Instr) (s t : State), exec i s = .next t → t.sp = spAfter s i

/-- No instruction changes a byte of RAM but at the addresses it stores to: those of `MOV @Ri,Rs`,
`MOV dir,Rs` and the pushes (20_memory.md R54, R58). -/
def Obligations.OnlyStoredBytesChange : Prop :=
  ∀ (i : Instr) (s t : State), s.ram.wf → exec i s = .next t → KeepsRam s t (storesTo s i)

/-- An instruction makes exactly the actions the spec gives it: one read for a direct source
0E0h..0EFh, one write for a direct destination there, none otherwise (20_memory.md R60 to R62). -/
def Obligations.ActionsOfEachInstruction : Prop :=
  ∀ (i : Instr) (s t : State), exec i s = .next t → t.trace = s.trace ++ actionsOf s i

/-- Only WAIT looks at a test input: any other instruction samples none and does the same whatever the
environment would answer (10_state.md R33; 60_exceptions.md R197). -/
def Obligations.OnlyWaitReadsTestInputs : Prop :=
  ∀ (i : Instr) (s : State) (levels : List Bool), (∀ p, i ≠ .wait p) →
    exec i { s with testAnswers := levels } =
      onNext (fun t => { t with testAnswers := levels }) (exec i s) ∧
    ∀ t, exec i s = .next t → t.samples = s.samples ∧ t.waiting = s.waiting

/-! ## The assembler and the memories -/

/-- The assembler accepts an immediate exactly when it lies in -128..255, the target of a JF or JT
exactly when it lies in the 256-byte page of the next instruction, and the target of a JMP or CALL
exactly when it lies in the 1 KiB page of the next instruction, which with a 10-bit PC is every
target. An operand it accepts makes the jump or call land on the target it was given, the
instruction standing at `here`; an immediate it accepts is the value modulo 256 (30_encoding.md R98 to
R100, R111; for JMP and CALL with a 16-bit PC by the derivation in R111). -/
def Obligations.AssembledOperandsReachTarget : Prop :=
  (∀ n : Int, (asmImm n).isSome = true ↔ -128 ≤ n ∧ n ≤ 255) ∧
  (∀ (n : Int) (b : Byte), asmImm n = some b → (b.toNat : Int) = n % 256) ∧
  (∀ (w : PcWidth) (here target : ProgAddr), (asmAdr8 w here target).isSome = true ↔
    (cutPc w (here + 2)).toNat / 256 = target.toNat / 256) ∧
  (∀ (w : PcWidth) (here target : ProgAddr), (asmAdr10 w here target).isSome = true ↔
    (cutPc w (here + 2)).toNat / 1024 = target.toNat / 1024) ∧
  (∀ here target : ProgAddr, target.toNat < 1024 →
    (asmAdr10 .bits10 here target).isSome = true) ∧
  (∀ (f : FlagName) (x : Byte) (here target : ProgAddr) (s : State),
    asmAdr8 s.build.pcWidth here target = some x → target.toNat < 2 ^ s.build.pcWidth.bits →
    s.pc = cutPc s.build.pcWidth (here + 2) →
    (s.flag f = false → exec (.jf f x) s = .next { s with pc := target }) ∧
    (s.flag f = true → exec (.jt f x) s = .next { s with pc := target })) ∧
  (∀ (x : BitVec 10) (here target : ProgAddr) (s : State),
    asmAdr10 s.build.pcWidth here target = some x → target.toNat < 2 ^ s.build.pcWidth.bits →
    s.pc = cutPc s.build.pcWidth (here + 2) →
    exec (.jmp x) s = .next { s with pc := target } ∧
    ((s.sp + 1).toNat < s.build.ramSize → (s.sp + 2).toNat < s.build.ramSize →
      ∃ t, exec (.call x) s = .next t ∧ t.pc = target))

/-- Two memories in canonical form that read alike are equal data (the model's own; logs 3, 4). -/
def Obligations.CanonicalMemoriesAreEqual : Prop :=
  ∀ m m' : Memory, m.wf → m'.wf → (∀ a, m.read a = m'.read a) → m = m'
end

