-- ==== Sys2Proof/Laws/Assembler.lean ====
section
/-! SUPPORT. The two kinds of page as quotients of the address. -/

namespace Sys2Proof

/-- Two addresses lie in one 256-byte page (30_encoding.md R99). -/
theorem page8_eq_iff (a b : ProgAddr) :
    a.extractLsb' 8 8 = b.extractLsb' 8 8 ↔ a.toNat / 256 = b.toNat / 256 := by
  have ha := a.isLt
  have hb := b.isLt
  simp only [BitVec.toNat_eq, BitVec.extractLsb'_toNat, Nat.shiftRight_eq_div_pow]
  omega

/-- Two addresses lie in one 1 KiB page (30_encoding.md R100). -/
theorem page10_eq_iff (a b : ProgAddr) :
    a.extractLsb' 10 6 = b.extractLsb' 10 6 ↔ a.toNat / 1024 = b.toNat / 1024 := by
  have ha := a.isLt
  have hb := b.isLt
  simp only [BitVec.toNat_eq, BitVec.extractLsb'_toNat, Nat.shiftRight_eq_div_pow]
  omega

end Sys2Proof
end

