-- ==== Sys2Proof/Laws/Bus.lean ====
section
/-! SUPPORT. What one more action does to the pins of the output port. -/

namespace Sys2Proof

@[simp] theorem outputPins_append_write (trace : List IoEvent) (p : Port) (v : Byte) :
    outputPins (trace ++ [.write p v]) = if p = 5 then some v else outputPins trace := by
  simp [outputPins]

@[simp] theorem outputPins_append_read (trace : List IoEvent) (p : Port) (v : Byte) :
    outputPins (trace ++ [.read p v]) = outputPins trace := by
  simp [outputPins]

end Sys2Proof
end

