-- ==== Sys2Proof/Laws/Flags.lean ====
section
/-! SUPPORT. What writing a flag does to the PSW. -/

namespace Sys2Proof.Machine

/-- Every bit of a byte after one of them is replaced. -/
theorem getLsbD_putBit (w : Byte) (pos n : Nat) (b : Bool) (hp : pos < 8) :
    (putBit w pos b).getLsbD n = if n = pos then b else w.getLsbD n := by
  by_cases hn : n < 8
  · unfold putBit
    by_cases h : n = pos
    · subst h
      cases b <;> simp [hn]
    · cases b <;> by_cases hlt : n < pos <;> simp [hn, h, hlt] <;> omega
  · have hbig : ∀ u : Byte, u.getLsbD n = false := fun u =>
      BitVec.getLsbD_of_ge u n (Nat.le_of_not_lt hn)
    rw [hbig, hbig, if_neg (by omega)]

theorem flagPos_lt (f : FlagName) : flagPos f < 4 := by cases f <;> decide

theorem flagPos_inj {f g : FlagName} (h : flagPos f = flagPos g) : f = g := by
  cases f <;> cases g <;> first | rfl | exact absurd h (by decide)

@[simp] theorem State.flag_setFlag_same (s : State) (f : FlagName) (b : Bool) :
    (s.setFlag f b).flag f = b := by
  have h := flagPos_lt f
  simp only [State.flag, State.setFlag, getLsbD_putBit _ _ _ _ (show flagPos f < 8 by omega), if_true]

theorem State.flag_setFlag_ne (s : State) (f g : FlagName) (b : Bool) (h : g ≠ f) :
    (s.setFlag f b).flag g = s.flag g := by
  have hf := flagPos_lt f
  simp only [State.flag, State.setFlag, getLsbD_putBit _ _ _ _ (show flagPos f < 8 by omega),
    if_neg (fun e => h (flagPos_inj e))]

/-- A flag is C, V, Z or S, so PSW bits 4..7 keep their value (10_state.md R26). -/
@[simp] theorem putBit_highBits (w : Byte) (f : FlagName) (b : Bool) :
    (putBit w (flagPos f) b).extractLsb' 4 4 = w.extractLsb' 4 4 := by
  have hf := flagPos_lt f
  apply BitVec.eq_of_getLsbD_eq
  intro n hn
  simp only [BitVec.getLsbD_extractLsb',
    getLsbD_putBit _ _ _ _ (show flagPos f < 8 by omega), if_neg (show ¬ 4 + n = flagPos f by omega)]

theorem State.setFlag_highBits (s : State) (f : FlagName) (b : Bool) :
    (s.setFlag f b).psw.extractLsb' 4 4 = s.psw.extractLsb' 4 4 := putBit_highBits s.psw f b

@[simp] theorem State.setCVZS_highBits (s : State) (o : AluOut) :
    (s.setCVZS o).psw.extractLsb' 4 4 = s.psw.extractLsb' 4 4 := by
  simp only [State.setCVZS, State.setFlag_highBits]

@[simp] theorem State.setZS_highBits (s : State) (r : Byte) :
    (s.setZS r).psw.extractLsb' 4 4 = s.psw.extractLsb' 4 4 := by
  simp only [State.setZS, State.setFlag_highBits]

@[simp] theorem State.setZ_highBits (s : State) (r : Byte) :
    (s.setZ r).psw.extractLsb' 4 4 = s.psw.extractLsb' 4 4 := State.setFlag_highBits s .z _

/-- ADD and SUB write each of the four flags. -/
theorem State.flag_setCVZS (s : State) (o : AluOut) :
    (s.setCVZS o).flag .c = o.c ∧ (s.setCVZS o).flag .v = o.v ∧ (s.setCVZS o).flag .z = o.z ∧
      (s.setCVZS o).flag .s = o.s := by
  refine ⟨?_, ?_, ?_, ?_⟩ <;> simp [State.setCVZS, State.flag_setFlag_ne]

/-- ANL writes Z and S and keeps C and V. -/
theorem State.flag_setZS (s : State) (r : Byte) :
    (s.setZS r).flag .c = s.flag .c ∧ (s.setZS r).flag .v = s.flag .v ∧
      (s.setZS r).flag .z = (r == 0) ∧ (s.setZS r).flag .s = r.msb := by
  refine ⟨?_, ?_, ?_, ?_⟩ <;> simp [State.setZS, State.flag_setFlag_ne]

end Sys2Proof.Machine
end

