-- ==== Sys2Proof/Laws/Memory.lean ====
section
/-! SUPPORT. The laws of memory: a read after a write, and the canonical form. -/

namespace Sys2Proof.Machine

@[simp] theorem Memory.read_nil (a : Nat) : Memory.read [] a = Memory.unlisted := rfl

/-- An address below every listed one reads as unlisted. -/
theorem Memory.read_of_lt (m : Memory) (a : Nat) (h : ∀ c ∈ m, a < c.1) :
    Memory.read m a = Memory.unlisted := by
  induction m with
  | nil => rfl
  | cons c m ih =>
    have hc : a < c.1 := h c (List.mem_cons_self ..)
    have hm : ∀ d ∈ m, a < d.1 := fun d hd => h d (List.mem_cons_of_mem _ hd)
    simp only [Memory.read, if_neg (show ¬ c.1 = a by omega), ih hm]

/-- A listed address of a write is the one written or was listed before. -/
theorem Memory.mem_write {m : Memory} {a : Nat} {v : Byte} {c : Host.Cell}
    (h : c ∈ Memory.write m a v) : (c = (a, v) ∧ v ≠ Memory.unlisted) ∨ c ∈ m := by
  induction m with
  | nil =>
    simp only [Memory.write] at h
    split at h <;> simp_all
  | cons d m ih =>
    obtain ⟨b, w⟩ := d
    simp only [Memory.write] at h
    split at h
    · split at h
      · exact .inr h
      · rcases List.mem_cons.1 h with h | h
        · exact .inl ⟨h, by assumption⟩
        · exact .inr h
    · split at h
      · split at h
        · exact .inr (List.mem_cons_of_mem _ h)
        · rcases List.mem_cons.1 h with h | h
          · exact .inl ⟨h, by assumption⟩
          · exact .inr (List.mem_cons_of_mem _ h)
      · rcases List.mem_cons.1 h with h | h
        · exact .inr (by rw [h]; exact List.mem_cons_self ..)
        · rcases ih h with h | h
          · exact .inl h
          · exact .inr (List.mem_cons_of_mem _ h)

/-- A read after a write in a memory whose addresses rise. -/
theorem Memory.read_write (m : Memory) (a k : Nat) (v : Byte)
    (hm : m.Pairwise (fun c d => c.1 < d.1)) :
    Memory.read (Memory.write m a v) k = if k = a then v else Memory.read m k := by
  induction m with
  | nil =>
    by_cases hv : v = Memory.unlisted <;> by_cases hk : k = a <;>
      simp_all [Memory.write, Memory.read, eq_comm]
  | cons c m ih =>
    obtain ⟨b, w⟩ := c
    obtain ⟨hb, hm'⟩ := List.pairwise_cons.1 hm
    have hlow : ∀ x, x ≤ b → Memory.read m x = Memory.unlisted := fun x hx =>
      Memory.read_of_lt m x (fun d hd => lt_of_le_of_lt hx (hb d hd))
    simp only [Memory.write]
    by_cases h1 : a < b
    · rw [if_pos h1]
      by_cases hv : v = Memory.unlisted
      · rw [if_pos hv]
        by_cases hk : k = a
        · subst hk
          simp only [Memory.read, if_neg (show ¬ b = k by omega), hlow k (by omega), if_true, hv]
        · rw [if_neg hk]
      · rw [if_neg hv]
        by_cases hk : k = a
        · simp only [Memory.read, hk, if_true]
        · simp only [Memory.read, if_neg hk, if_neg (show ¬ a = k from fun h => hk h.symm)]
    · rw [if_neg h1]
      by_cases h2 : a = b
      · subst h2
        rw [if_pos rfl]
        by_cases hv : v = Memory.unlisted
        · rw [if_pos hv]
          by_cases hk : k = a
          · subst hk; rw [if_pos rfl, hlow k (le_refl _), hv]
          · simp only [Memory.read, if_neg hk, if_neg (show ¬ a = k from fun h => hk h.symm)]
        · rw [if_neg hv]
          by_cases hk : k = a
          · simp only [Memory.read, hk, if_true]
          · simp only [Memory.read, if_neg hk, if_neg (show ¬ a = k from fun h => hk h.symm)]
      · rw [if_neg h2]
        by_cases hk : b = k
        · simp only [Memory.read, if_pos hk, if_neg (show ¬ k = a by omega)]
        · simp only [Memory.read, if_neg hk, ih hm']

/-- A write keeps the canonical form. -/
theorem Memory.wf_write {m : Memory} (a : Nat) (v : Byte) (h : Memory.wf m) :
    Memory.wf (Memory.write m a v) := by
  obtain ⟨hs, hv⟩ := h
  refine ⟨?_, ?_⟩
  · induction m with
    | nil => simp only [Memory.write]; split <;> simp
    | cons c m ih =>
      obtain ⟨b, w⟩ := c
      obtain ⟨hb, hs'⟩ := List.pairwise_cons.1 hs
      have hv' : ∀ d ∈ m, d.2 ≠ Memory.unlisted := fun d hd => hv d (List.mem_cons_of_mem _ hd)
      simp only [Memory.write]
      by_cases h1 : a < b
      · rw [if_pos h1]
        split
        · exact hs
        · refine List.pairwise_cons.2 ⟨fun d hd => ?_, hs⟩
          rcases List.mem_cons.1 hd with hd | hd
          · rw [hd]; exact h1
          · exact lt_trans h1 (hb d hd)
      · rw [if_neg h1]
        by_cases h2 : a = b
        · rw [if_pos h2]
          split
          · exact hs'
          · exact List.pairwise_cons.2 ⟨fun d hd => by rw [h2]; exact hb d hd, hs'⟩
        · rw [if_neg h2]
          refine List.pairwise_cons.2 ⟨fun d hd => ?_, ih hs' hv'⟩
          rcases Memory.mem_write hd with ⟨hd, -⟩ | hd
          · rw [hd]; show b < a; omega
          · exact hb d hd
  · intro c hc
    rcases Memory.mem_write hc with ⟨hc, hne⟩ | hc
    · rw [hc]; exact hne
    · exact hv c hc

/-- A write below a bound lists nothing at or above it. -/
theorem Memory.below_write {m : Memory} {n a : Nat} (v : Byte) (h : Memory.below m n) (ha : a < n) :
    Memory.below (Memory.write m a v) n := by
  intro c hc
  rcases Memory.mem_write hc with ⟨hc, -⟩ | hc
  · rw [hc]; exact ha
  · exact h c hc

end Sys2Proof.Machine
end

