-- ==== Sys2Proof/Laws/State.lean ====
section
/-! SUPPORT. One lemma per field per update of the state, so that no proof unfolds a record update. -/

namespace Sys2Proof.Machine

/-! `setReg` -/

@[simp] theorem State.setReg_build (s : State) (r : Reg) (v : Byte) : (s.setReg r v).build = s.build := by cases r <;> rfl
@[simp] theorem State.setReg_prog (s : State) (r : Reg) (v : Byte) : (s.setReg r v).prog = s.prog := by cases r <;> rfl
@[simp] theorem State.setReg_pc (s : State) (r : Reg) (v : Byte) : (s.setReg r v).pc = s.pc := by cases r <;> rfl
@[simp] theorem State.setReg_psw (s : State) (r : Reg) (v : Byte) : (s.setReg r v).psw = s.psw := by cases r <;> rfl
@[simp] theorem State.setReg_sp (s : State) (r : Reg) (v : Byte) : (s.setReg r v).sp = s.sp := by cases r <;> rfl
@[simp] theorem State.setReg_ram (s : State) (r : Reg) (v : Byte) : (s.setReg r v).ram = s.ram := by cases r <;> rfl
@[simp] theorem State.setReg_waiting (s : State) (r : Reg) (v : Byte) : (s.setReg r v).waiting = s.waiting := by cases r <;> rfl
@[simp] theorem State.setReg_ioAnswers (s : State) (r : Reg) (v : Byte) : (s.setReg r v).ioAnswers = s.ioAnswers := by cases r <;> rfl
@[simp] theorem State.setReg_testAnswers (s : State) (r : Reg) (v : Byte) : (s.setReg r v).testAnswers = s.testAnswers := by cases r <;> rfl
@[simp] theorem State.setReg_samples (s : State) (r : Reg) (v : Byte) : (s.setReg r v).samples = s.samples := by cases r <;> rfl
@[simp] theorem State.setReg_trace (s : State) (r : Reg) (v : Byte) : (s.setReg r v).trace = s.trace := by cases r <;> rfl
@[simp] theorem State.setReg_flag (s : State) (r : Reg) (v : Byte) (g : FlagName) : (s.setReg r v).flag g = s.flag g := by
  cases r <;> rfl
@[simp] theorem State.setReg_ramByte (s : State) (r : Reg) (v : Byte) (c : Byte) : (s.setReg r v).ramByte c = s.ramByte c := by cases r <;> rfl

/-! `setFlag` -/

@[simp] theorem State.setFlag_build (s : State) (f : FlagName) (b : Bool) : (s.setFlag f b).build = s.build := rfl
@[simp] theorem State.setFlag_prog (s : State) (f : FlagName) (b : Bool) : (s.setFlag f b).prog = s.prog := rfl
@[simp] theorem State.setFlag_r0 (s : State) (f : FlagName) (b : Bool) : (s.setFlag f b).r0 = s.r0 := rfl
@[simp] theorem State.setFlag_r1 (s : State) (f : FlagName) (b : Bool) : (s.setFlag f b).r1 = s.r1 := rfl
@[simp] theorem State.setFlag_r2 (s : State) (f : FlagName) (b : Bool) : (s.setFlag f b).r2 = s.r2 := rfl
@[simp] theorem State.setFlag_r3 (s : State) (f : FlagName) (b : Bool) : (s.setFlag f b).r3 = s.r3 := rfl
@[simp] theorem State.setFlag_pc (s : State) (f : FlagName) (b : Bool) : (s.setFlag f b).pc = s.pc := rfl
@[simp] theorem State.setFlag_psw (s : State) (f : FlagName) (b : Bool) :
    (s.setFlag f b).psw = putBit s.psw (flagPos f) b := rfl
@[simp] theorem State.setFlag_sp (s : State) (f : FlagName) (b : Bool) : (s.setFlag f b).sp = s.sp := rfl
@[simp] theorem State.setFlag_ram (s : State) (f : FlagName) (b : Bool) : (s.setFlag f b).ram = s.ram := rfl
@[simp] theorem State.setFlag_waiting (s : State) (f : FlagName) (b : Bool) : (s.setFlag f b).waiting = s.waiting := rfl
@[simp] theorem State.setFlag_ioAnswers (s : State) (f : FlagName) (b : Bool) : (s.setFlag f b).ioAnswers = s.ioAnswers := rfl
@[simp] theorem State.setFlag_testAnswers (s : State) (f : FlagName) (b : Bool) : (s.setFlag f b).testAnswers = s.testAnswers := rfl
@[simp] theorem State.setFlag_samples (s : State) (f : FlagName) (b : Bool) : (s.setFlag f b).samples = s.samples := rfl
@[simp] theorem State.setFlag_trace (s : State) (f : FlagName) (b : Bool) : (s.setFlag f b).trace = s.trace := rfl
@[simp] theorem State.setFlag_reg (s : State) (f : FlagName) (b : Bool) (q : Reg) : (s.setFlag f b).reg q = s.reg q := by
  cases q <;> rfl
@[simp] theorem State.setFlag_pointer (s : State) (f : FlagName) (b : Bool) (q : Pointer) :
    (s.setFlag f b).pointer q = s.pointer q := by
  cases q <;> rfl
@[simp] theorem State.setFlag_ramByte (s : State) (f : FlagName) (b : Bool) (c : Byte) : (s.setFlag f b).ramByte c = s.ramByte c := rfl

/-! `setCVZS` -/

@[simp] theorem State.setCVZS_build (s : State) (o : AluOut) : (s.setCVZS o).build = s.build := rfl
@[simp] theorem State.setCVZS_prog (s : State) (o : AluOut) : (s.setCVZS o).prog = s.prog := rfl
@[simp] theorem State.setCVZS_r0 (s : State) (o : AluOut) : (s.setCVZS o).r0 = s.r0 := rfl
@[simp] theorem State.setCVZS_r1 (s : State) (o : AluOut) : (s.setCVZS o).r1 = s.r1 := rfl
@[simp] theorem State.setCVZS_r2 (s : State) (o : AluOut) : (s.setCVZS o).r2 = s.r2 := rfl
@[simp] theorem State.setCVZS_r3 (s : State) (o : AluOut) : (s.setCVZS o).r3 = s.r3 := rfl
@[simp] theorem State.setCVZS_pc (s : State) (o : AluOut) : (s.setCVZS o).pc = s.pc := rfl
@[simp] theorem State.setCVZS_sp (s : State) (o : AluOut) : (s.setCVZS o).sp = s.sp := rfl
@[simp] theorem State.setCVZS_ram (s : State) (o : AluOut) : (s.setCVZS o).ram = s.ram := rfl
@[simp] theorem State.setCVZS_waiting (s : State) (o : AluOut) : (s.setCVZS o).waiting = s.waiting := rfl
@[simp] theorem State.setCVZS_ioAnswers (s : State) (o : AluOut) : (s.setCVZS o).ioAnswers = s.ioAnswers := rfl
@[simp] theorem State.setCVZS_testAnswers (s : State) (o : AluOut) : (s.setCVZS o).testAnswers = s.testAnswers := rfl
@[simp] theorem State.setCVZS_samples (s : State) (o : AluOut) : (s.setCVZS o).samples = s.samples := rfl
@[simp] theorem State.setCVZS_trace (s : State) (o : AluOut) : (s.setCVZS o).trace = s.trace := rfl
@[simp] theorem State.setCVZS_reg (s : State) (o : AluOut) (q : Reg) : (s.setCVZS o).reg q = s.reg q := by
  cases q <;> rfl
@[simp] theorem State.setCVZS_pointer (s : State) (o : AluOut) (q : Pointer) :
    (s.setCVZS o).pointer q = s.pointer q := by
  cases q <;> rfl
@[simp] theorem State.setCVZS_ramByte (s : State) (o : AluOut) (c : Byte) : (s.setCVZS o).ramByte c = s.ramByte c := rfl

/-! `setZS` -/

@[simp] theorem State.setZS_build (s : State) (r : Byte) : (s.setZS r).build = s.build := rfl
@[simp] theorem State.setZS_prog (s : State) (r : Byte) : (s.setZS r).prog = s.prog := rfl
@[simp] theorem State.setZS_r0 (s : State) (r : Byte) : (s.setZS r).r0 = s.r0 := rfl
@[simp] theorem State.setZS_r1 (s : State) (r : Byte) : (s.setZS r).r1 = s.r1 := rfl
@[simp] theorem State.setZS_r2 (s : State) (r : Byte) : (s.setZS r).r2 = s.r2 := rfl
@[simp] theorem State.setZS_r3 (s : State) (r : Byte) : (s.setZS r).r3 = s.r3 := rfl
@[simp] theorem State.setZS_pc (s : State) (r : Byte) : (s.setZS r).pc = s.pc := rfl
@[simp] theorem State.setZS_sp (s : State) (r : Byte) : (s.setZS r).sp = s.sp := rfl
@[simp] theorem State.setZS_ram (s : State) (r : Byte) : (s.setZS r).ram = s.ram := rfl
@[simp] theorem State.setZS_waiting (s : State) (r : Byte) : (s.setZS r).waiting = s.waiting := rfl
@[simp] theorem State.setZS_ioAnswers (s : State) (r : Byte) : (s.setZS r).ioAnswers = s.ioAnswers := rfl
@[simp] theorem State.setZS_testAnswers (s : State) (r : Byte) : (s.setZS r).testAnswers = s.testAnswers := rfl
@[simp] theorem State.setZS_samples (s : State) (r : Byte) : (s.setZS r).samples = s.samples := rfl
@[simp] theorem State.setZS_trace (s : State) (r : Byte) : (s.setZS r).trace = s.trace := rfl
@[simp] theorem State.setZS_reg (s : State) (r : Byte) (q : Reg) : (s.setZS r).reg q = s.reg q := by
  cases q <;> rfl
@[simp] theorem State.setZS_pointer (s : State) (r : Byte) (q : Pointer) :
    (s.setZS r).pointer q = s.pointer q := by
  cases q <;> rfl
@[simp] theorem State.setZS_ramByte (s : State) (r : Byte) (c : Byte) : (s.setZS r).ramByte c = s.ramByte c := rfl

/-! `setZ` -/

@[simp] theorem State.setZ_build (s : State) (r : Byte) : (s.setZ r).build = s.build := rfl
@[simp] theorem State.setZ_prog (s : State) (r : Byte) : (s.setZ r).prog = s.prog := rfl
@[simp] theorem State.setZ_r0 (s : State) (r : Byte) : (s.setZ r).r0 = s.r0 := rfl
@[simp] theorem State.setZ_r1 (s : State) (r : Byte) : (s.setZ r).r1 = s.r1 := rfl
@[simp] theorem State.setZ_r2 (s : State) (r : Byte) : (s.setZ r).r2 = s.r2 := rfl
@[simp] theorem State.setZ_r3 (s : State) (r : Byte) : (s.setZ r).r3 = s.r3 := rfl
@[simp] theorem State.setZ_pc (s : State) (r : Byte) : (s.setZ r).pc = s.pc := rfl
@[simp] theorem State.setZ_sp (s : State) (r : Byte) : (s.setZ r).sp = s.sp := rfl
@[simp] theorem State.setZ_ram (s : State) (r : Byte) : (s.setZ r).ram = s.ram := rfl
@[simp] theorem State.setZ_waiting (s : State) (r : Byte) : (s.setZ r).waiting = s.waiting := rfl
@[simp] theorem State.setZ_ioAnswers (s : State) (r : Byte) : (s.setZ r).ioAnswers = s.ioAnswers := rfl
@[simp] theorem State.setZ_testAnswers (s : State) (r : Byte) : (s.setZ r).testAnswers = s.testAnswers := rfl
@[simp] theorem State.setZ_samples (s : State) (r : Byte) : (s.setZ r).samples = s.samples := rfl
@[simp] theorem State.setZ_trace (s : State) (r : Byte) : (s.setZ r).trace = s.trace := rfl
@[simp] theorem State.setZ_reg (s : State) (r : Byte) (q : Reg) : (s.setZ r).reg q = s.reg q := by
  cases q <;> rfl
@[simp] theorem State.setZ_pointer (s : State) (r : Byte) (q : Pointer) :
    (s.setZ r).pointer q = s.pointer q := by
  cases q <;> rfl
@[simp] theorem State.setZ_ramByte (s : State) (r : Byte) (c : Byte) : (s.setZ r).ramByte c = s.ramByte c := rfl

/-! `setPc` -/

@[simp] theorem State.setPc_build (s : State) (a : ProgAddr) : (s.setPc a).build = s.build := rfl
@[simp] theorem State.setPc_prog (s : State) (a : ProgAddr) : (s.setPc a).prog = s.prog := rfl
@[simp] theorem State.setPc_r0 (s : State) (a : ProgAddr) : (s.setPc a).r0 = s.r0 := rfl
@[simp] theorem State.setPc_r1 (s : State) (a : ProgAddr) : (s.setPc a).r1 = s.r1 := rfl
@[simp] theorem State.setPc_r2 (s : State) (a : ProgAddr) : (s.setPc a).r2 = s.r2 := rfl
@[simp] theorem State.setPc_r3 (s : State) (a : ProgAddr) : (s.setPc a).r3 = s.r3 := rfl
@[simp] theorem State.setPc_pc (s : State) (a : ProgAddr) :
    (s.setPc a).pc = cutPc s.build.pcWidth a := rfl
@[simp] theorem State.setPc_psw (s : State) (a : ProgAddr) : (s.setPc a).psw = s.psw := rfl
@[simp] theorem State.setPc_sp (s : State) (a : ProgAddr) : (s.setPc a).sp = s.sp := rfl
@[simp] theorem State.setPc_ram (s : State) (a : ProgAddr) : (s.setPc a).ram = s.ram := rfl
@[simp] theorem State.setPc_waiting (s : State) (a : ProgAddr) : (s.setPc a).waiting = s.waiting := rfl
@[simp] theorem State.setPc_ioAnswers (s : State) (a : ProgAddr) : (s.setPc a).ioAnswers = s.ioAnswers := rfl
@[simp] theorem State.setPc_testAnswers (s : State) (a : ProgAddr) : (s.setPc a).testAnswers = s.testAnswers := rfl
@[simp] theorem State.setPc_samples (s : State) (a : ProgAddr) : (s.setPc a).samples = s.samples := rfl
@[simp] theorem State.setPc_trace (s : State) (a : ProgAddr) : (s.setPc a).trace = s.trace := rfl
@[simp] theorem State.setPc_reg (s : State) (a : ProgAddr) (q : Reg) : (s.setPc a).reg q = s.reg q := by
  cases q <;> rfl
@[simp] theorem State.setPc_pointer (s : State) (a : ProgAddr) (q : Pointer) :
    (s.setPc a).pointer q = s.pointer q := by
  cases q <;> rfl
@[simp] theorem State.setPc_flag (s : State) (a : ProgAddr) (g : FlagName) : (s.setPc a).flag g = s.flag g := rfl
@[simp] theorem State.setPc_ramByte (s : State) (a : ProgAddr) (c : Byte) : (s.setPc a).ramByte c = s.ramByte c := rfl

/-! `jumpPage8` -/

@[simp] theorem State.jumpPage8_build (s : State) (a : Byte) : (s.jumpPage8 a).build = s.build := rfl
@[simp] theorem State.jumpPage8_prog (s : State) (a : Byte) : (s.jumpPage8 a).prog = s.prog := rfl
@[simp] theorem State.jumpPage8_r0 (s : State) (a : Byte) : (s.jumpPage8 a).r0 = s.r0 := rfl
@[simp] theorem State.jumpPage8_r1 (s : State) (a : Byte) : (s.jumpPage8 a).r1 = s.r1 := rfl
@[simp] theorem State.jumpPage8_r2 (s : State) (a : Byte) : (s.jumpPage8 a).r2 = s.r2 := rfl
@[simp] theorem State.jumpPage8_r3 (s : State) (a : Byte) : (s.jumpPage8 a).r3 = s.r3 := rfl
@[simp] theorem State.jumpPage8_pc (s : State) (a : Byte) :
    (s.jumpPage8 a).pc = cutPc s.build.pcWidth (s.pc.extractLsb' 8 8 ++ a) := rfl
@[simp] theorem State.jumpPage8_psw (s : State) (a : Byte) : (s.jumpPage8 a).psw = s.psw := rfl
@[simp] theorem State.jumpPage8_sp (s : State) (a : Byte) : (s.jumpPage8 a).sp = s.sp := rfl
@[simp] theorem State.jumpPage8_ram (s : State) (a : Byte) : (s.jumpPage8 a).ram = s.ram := rfl
@[simp] theorem State.jumpPage8_waiting (s : State) (a : Byte) : (s.jumpPage8 a).waiting = s.waiting := rfl
@[simp] theorem State.jumpPage8_ioAnswers (s : State) (a : Byte) : (s.jumpPage8 a).ioAnswers = s.ioAnswers := rfl
@[simp] theorem State.jumpPage8_testAnswers (s : State) (a : Byte) : (s.jumpPage8 a).testAnswers = s.testAnswers := rfl
@[simp] theorem State.jumpPage8_samples (s : State) (a : Byte) : (s.jumpPage8 a).samples = s.samples := rfl
@[simp] theorem State.jumpPage8_trace (s : State) (a : Byte) : (s.jumpPage8 a).trace = s.trace := rfl
@[simp] theorem State.jumpPage8_reg (s : State) (a : Byte) (q : Reg) : (s.jumpPage8 a).reg q = s.reg q := by
  cases q <;> rfl
@[simp] theorem State.jumpPage8_pointer (s : State) (a : Byte) (q : Pointer) :
    (s.jumpPage8 a).pointer q = s.pointer q := by
  cases q <;> rfl
@[simp] theorem State.jumpPage8_flag (s : State) (a : Byte) (g : FlagName) : (s.jumpPage8 a).flag g = s.flag g := rfl
@[simp] theorem State.jumpPage8_ramByte (s : State) (a : Byte) (c : Byte) : (s.jumpPage8 a).ramByte c = s.ramByte c := rfl

/-! `jumpPage10` -/

@[simp] theorem State.jumpPage10_build (s : State) (a : BitVec 10) : (s.jumpPage10 a).build = s.build := rfl
@[simp] theorem State.jumpPage10_prog (s : State) (a : BitVec 10) : (s.jumpPage10 a).prog = s.prog := rfl
@[simp] theorem State.jumpPage10_r0 (s : State) (a : BitVec 10) : (s.jumpPage10 a).r0 = s.r0 := rfl
@[simp] theorem State.jumpPage10_r1 (s : State) (a : BitVec 10) : (s.jumpPage10 a).r1 = s.r1 := rfl
@[simp] theorem State.jumpPage10_r2 (s : State) (a : BitVec 10) : (s.jumpPage10 a).r2 = s.r2 := rfl
@[simp] theorem State.jumpPage10_r3 (s : State) (a : BitVec 10) : (s.jumpPage10 a).r3 = s.r3 := rfl
@[simp] theorem State.jumpPage10_pc (s : State) (a : BitVec 10) :
    (s.jumpPage10 a).pc = cutPc s.build.pcWidth (s.pc.extractLsb' 10 6 ++ a) := rfl
@[simp] theorem State.jumpPage10_psw (s : State) (a : BitVec 10) : (s.jumpPage10 a).psw = s.psw := rfl
@[simp] theorem State.jumpPage10_sp (s : State) (a : BitVec 10) : (s.jumpPage10 a).sp = s.sp := rfl
@[simp] theorem State.jumpPage10_ram (s : State) (a : BitVec 10) : (s.jumpPage10 a).ram = s.ram := rfl
@[simp] theorem State.jumpPage10_waiting (s : State) (a : BitVec 10) : (s.jumpPage10 a).waiting = s.waiting := rfl
@[simp] theorem State.jumpPage10_ioAnswers (s : State) (a : BitVec 10) : (s.jumpPage10 a).ioAnswers = s.ioAnswers := rfl
@[simp] theorem State.jumpPage10_testAnswers (s : State) (a : BitVec 10) : (s.jumpPage10 a).testAnswers = s.testAnswers := rfl
@[simp] theorem State.jumpPage10_samples (s : State) (a : BitVec 10) : (s.jumpPage10 a).samples = s.samples := rfl
@[simp] theorem State.jumpPage10_trace (s : State) (a : BitVec 10) : (s.jumpPage10 a).trace = s.trace := rfl
@[simp] theorem State.jumpPage10_reg (s : State) (a : BitVec 10) (q : Reg) : (s.jumpPage10 a).reg q = s.reg q := by
  cases q <;> rfl
@[simp] theorem State.jumpPage10_pointer (s : State) (a : BitVec 10) (q : Pointer) :
    (s.jumpPage10 a).pointer q = s.pointer q := by
  cases q <;> rfl
@[simp] theorem State.jumpPage10_flag (s : State) (a : BitVec 10) (g : FlagName) : (s.jumpPage10 a).flag g = s.flag g := rfl
@[simp] theorem State.jumpPage10_ramByte (s : State) (a : BitVec 10) (c : Byte) : (s.jumpPage10 a).ramByte c = s.ramByte c := rfl

/-! `setSp` -/

@[simp] theorem State.setSp_build (s : State) (v : Byte) : (s.setSp v).build = s.build := rfl
@[simp] theorem State.setSp_prog (s : State) (v : Byte) : (s.setSp v).prog = s.prog := rfl
@[simp] theorem State.setSp_r0 (s : State) (v : Byte) : (s.setSp v).r0 = s.r0 := rfl
@[simp] theorem State.setSp_r1 (s : State) (v : Byte) : (s.setSp v).r1 = s.r1 := rfl
@[simp] theorem State.setSp_r2 (s : State) (v : Byte) : (s.setSp v).r2 = s.r2 := rfl
@[simp] theorem State.setSp_r3 (s : State) (v : Byte) : (s.setSp v).r3 = s.r3 := rfl
@[simp] theorem State.setSp_pc (s : State) (v : Byte) : (s.setSp v).pc = s.pc := rfl
@[simp] theorem State.setSp_psw (s : State) (v : Byte) : (s.setSp v).psw = s.psw := rfl
@[simp] theorem State.setSp_sp (s : State) (v : Byte) :
    (s.setSp v).sp = v := rfl
@[simp] theorem State.setSp_ram (s : State) (v : Byte) : (s.setSp v).ram = s.ram := rfl
@[simp] theorem State.setSp_waiting (s : State) (v : Byte) : (s.setSp v).waiting = s.waiting := rfl
@[simp] theorem State.setSp_ioAnswers (s : State) (v : Byte) : (s.setSp v).ioAnswers = s.ioAnswers := rfl
@[simp] theorem State.setSp_testAnswers (s : State) (v : Byte) : (s.setSp v).testAnswers = s.testAnswers := rfl
@[simp] theorem State.setSp_samples (s : State) (v : Byte) : (s.setSp v).samples = s.samples := rfl
@[simp] theorem State.setSp_trace (s : State) (v : Byte) : (s.setSp v).trace = s.trace := rfl
@[simp] theorem State.setSp_reg (s : State) (v : Byte) (q : Reg) : (s.setSp v).reg q = s.reg q := by
  cases q <;> rfl
@[simp] theorem State.setSp_pointer (s : State) (v : Byte) (q : Pointer) :
    (s.setSp v).pointer q = s.pointer q := by
  cases q <;> rfl
@[simp] theorem State.setSp_flag (s : State) (v : Byte) (g : FlagName) : (s.setSp v).flag g = s.flag g := rfl
@[simp] theorem State.setSp_ramByte (s : State) (v : Byte) (c : Byte) : (s.setSp v).ramByte c = s.ramByte c := rfl

/-! `setPsw` -/

@[simp] theorem State.setPsw_build (s : State) (v : Byte) : (s.setPsw v).build = s.build := rfl
@[simp] theorem State.setPsw_prog (s : State) (v : Byte) : (s.setPsw v).prog = s.prog := rfl
@[simp] theorem State.setPsw_r0 (s : State) (v : Byte) : (s.setPsw v).r0 = s.r0 := rfl
@[simp] theorem State.setPsw_r1 (s : State) (v : Byte) : (s.setPsw v).r1 = s.r1 := rfl
@[simp] theorem State.setPsw_r2 (s : State) (v : Byte) : (s.setPsw v).r2 = s.r2 := rfl
@[simp] theorem State.setPsw_r3 (s : State) (v : Byte) : (s.setPsw v).r3 = s.r3 := rfl
@[simp] theorem State.setPsw_pc (s : State) (v : Byte) : (s.setPsw v).pc = s.pc := rfl
@[simp] theorem State.setPsw_psw (s : State) (v : Byte) :
    (s.setPsw v).psw = v := rfl
@[simp] theorem State.setPsw_sp (s : State) (v : Byte) : (s.setPsw v).sp = s.sp := rfl
@[simp] theorem State.setPsw_ram (s : State) (v : Byte) : (s.setPsw v).ram = s.ram := rfl
@[simp] theorem State.setPsw_waiting (s : State) (v : Byte) : (s.setPsw v).waiting = s.waiting := rfl
@[simp] theorem State.setPsw_ioAnswers (s : State) (v : Byte) : (s.setPsw v).ioAnswers = s.ioAnswers := rfl
@[simp] theorem State.setPsw_testAnswers (s : State) (v : Byte) : (s.setPsw v).testAnswers = s.testAnswers := rfl
@[simp] theorem State.setPsw_samples (s : State) (v : Byte) : (s.setPsw v).samples = s.samples := rfl
@[simp] theorem State.setPsw_trace (s : State) (v : Byte) : (s.setPsw v).trace = s.trace := rfl
@[simp] theorem State.setPsw_reg (s : State) (v : Byte) (q : Reg) : (s.setPsw v).reg q = s.reg q := by
  cases q <;> rfl
@[simp] theorem State.setPsw_pointer (s : State) (v : Byte) (q : Pointer) :
    (s.setPsw v).pointer q = s.pointer q := by
  cases q <;> rfl
@[simp] theorem State.setPsw_ramByte (s : State) (v : Byte) (c : Byte) : (s.setPsw v).ramByte c = s.ramByte c := rfl

/-! `ioWrite` -/

@[simp] theorem State.ioWrite_build (s : State) (p : Port) (v : Byte) : (s.ioWrite p v).build = s.build := rfl
@[simp] theorem State.ioWrite_prog (s : State) (p : Port) (v : Byte) : (s.ioWrite p v).prog = s.prog := rfl
@[simp] theorem State.ioWrite_r0 (s : State) (p : Port) (v : Byte) : (s.ioWrite p v).r0 = s.r0 := rfl
@[simp] theorem State.ioWrite_r1 (s : State) (p : Port) (v : Byte) : (s.ioWrite p v).r1 = s.r1 := rfl
@[simp] theorem State.ioWrite_r2 (s : State) (p : Port) (v : Byte) : (s.ioWrite p v).r2 = s.r2 := rfl
@[simp] theorem State.ioWrite_r3 (s : State) (p : Port) (v : Byte) : (s.ioWrite p v).r3 = s.r3 := rfl
@[simp] theorem State.ioWrite_pc (s : State) (p : Port) (v : Byte) : (s.ioWrite p v).pc = s.pc := rfl
@[simp] theorem State.ioWrite_psw (s : State) (p : Port) (v : Byte) : (s.ioWrite p v).psw = s.psw := rfl
@[simp] theorem State.ioWrite_sp (s : State) (p : Port) (v : Byte) : (s.ioWrite p v).sp = s.sp := rfl
@[simp] theorem State.ioWrite_ram (s : State) (p : Port) (v : Byte) : (s.ioWrite p v).ram = s.ram := rfl
@[simp] theorem State.ioWrite_waiting (s : State) (p : Port) (v : Byte) : (s.ioWrite p v).waiting = s.waiting := rfl
@[simp] theorem State.ioWrite_ioAnswers (s : State) (p : Port) (v : Byte) : (s.ioWrite p v).ioAnswers = s.ioAnswers := rfl
@[simp] theorem State.ioWrite_testAnswers (s : State) (p : Port) (v : Byte) : (s.ioWrite p v).testAnswers = s.testAnswers := rfl
@[simp] theorem State.ioWrite_samples (s : State) (p : Port) (v : Byte) : (s.ioWrite p v).samples = s.samples := rfl
@[simp] theorem State.ioWrite_trace (s : State) (p : Port) (v : Byte) :
    (s.ioWrite p v).trace = s.trace ++ [.write p v] := rfl
@[simp] theorem State.ioWrite_reg (s : State) (p : Port) (v : Byte) (q : Reg) : (s.ioWrite p v).reg q = s.reg q := by
  cases q <;> rfl
@[simp] theorem State.ioWrite_pointer (s : State) (p : Port) (v : Byte) (q : Pointer) :
    (s.ioWrite p v).pointer q = s.pointer q := by
  cases q <;> rfl
@[simp] theorem State.ioWrite_flag (s : State) (p : Port) (v : Byte) (g : FlagName) : (s.ioWrite p v).flag g = s.flag g := rfl
@[simp] theorem State.ioWrite_ramByte (s : State) (p : Port) (v : Byte) (c : Byte) : (s.ioWrite p v).ramByte c = s.ramByte c := rfl

/-! `sampleWait` -/

@[simp] theorem State.sampleWait_build (s : State) (t : TestPin) : (s.sampleWait t).build = s.build := rfl
@[simp] theorem State.sampleWait_prog (s : State) (t : TestPin) : (s.sampleWait t).prog = s.prog := rfl
@[simp] theorem State.sampleWait_r0 (s : State) (t : TestPin) : (s.sampleWait t).r0 = s.r0 := rfl
@[simp] theorem State.sampleWait_r1 (s : State) (t : TestPin) : (s.sampleWait t).r1 = s.r1 := rfl
@[simp] theorem State.sampleWait_r2 (s : State) (t : TestPin) : (s.sampleWait t).r2 = s.r2 := rfl
@[simp] theorem State.sampleWait_r3 (s : State) (t : TestPin) : (s.sampleWait t).r3 = s.r3 := rfl
@[simp] theorem State.sampleWait_pc (s : State) (t : TestPin) : (s.sampleWait t).pc = s.pc := rfl
@[simp] theorem State.sampleWait_psw (s : State) (t : TestPin) : (s.sampleWait t).psw = s.psw := rfl
@[simp] theorem State.sampleWait_sp (s : State) (t : TestPin) : (s.sampleWait t).sp = s.sp := rfl
@[simp] theorem State.sampleWait_ram (s : State) (t : TestPin) : (s.sampleWait t).ram = s.ram := rfl
@[simp] theorem State.sampleWait_waiting (s : State) (t : TestPin) :
    (s.sampleWait t).waiting = if s.testAnswer t then none else some t := rfl
@[simp] theorem State.sampleWait_ioAnswers (s : State) (t : TestPin) : (s.sampleWait t).ioAnswers = s.ioAnswers := rfl
@[simp] theorem State.sampleWait_testAnswers (s : State) (t : TestPin) :
    (s.sampleWait t).testAnswers = s.testAnswers.tail := rfl
@[simp] theorem State.sampleWait_samples (s : State) (t : TestPin) :
    (s.sampleWait t).samples = s.samples + 1 := rfl
@[simp] theorem State.sampleWait_trace (s : State) (t : TestPin) : (s.sampleWait t).trace = s.trace := rfl
@[simp] theorem State.sampleWait_reg (s : State) (t : TestPin) (q : Reg) : (s.sampleWait t).reg q = s.reg q := by
  cases q <;> rfl
@[simp] theorem State.sampleWait_pointer (s : State) (t : TestPin) (q : Pointer) :
    (s.sampleWait t).pointer q = s.pointer q := by
  cases q <;> rfl
@[simp] theorem State.sampleWait_flag (s : State) (t : TestPin) (g : FlagName) : (s.sampleWait t).flag g = s.flag g := rfl
@[simp] theorem State.sampleWait_ramByte (s : State) (t : TestPin) (c : Byte) : (s.sampleWait t).ramByte c = s.ramByte c := rfl

/-! `ioRead` -/

@[simp] theorem State.ioRead_value (s : State) (p : Port) : (s.ioRead p).1 = s.ioAnswer p := rfl
@[simp] theorem State.ioRead_build (s : State) (p : Port) : (s.ioRead p).2.build = s.build := rfl
@[simp] theorem State.ioRead_prog (s : State) (p : Port) : (s.ioRead p).2.prog = s.prog := rfl
@[simp] theorem State.ioRead_r0 (s : State) (p : Port) : (s.ioRead p).2.r0 = s.r0 := rfl
@[simp] theorem State.ioRead_r1 (s : State) (p : Port) : (s.ioRead p).2.r1 = s.r1 := rfl
@[simp] theorem State.ioRead_r2 (s : State) (p : Port) : (s.ioRead p).2.r2 = s.r2 := rfl
@[simp] theorem State.ioRead_r3 (s : State) (p : Port) : (s.ioRead p).2.r3 = s.r3 := rfl
@[simp] theorem State.ioRead_pc (s : State) (p : Port) : (s.ioRead p).2.pc = s.pc := rfl
@[simp] theorem State.ioRead_psw (s : State) (p : Port) : (s.ioRead p).2.psw = s.psw := rfl
@[simp] theorem State.ioRead_sp (s : State) (p : Port) : (s.ioRead p).2.sp = s.sp := rfl
@[simp] theorem State.ioRead_ram (s : State) (p : Port) : (s.ioRead p).2.ram = s.ram := rfl
@[simp] theorem State.ioRead_waiting (s : State) (p : Port) : (s.ioRead p).2.waiting = s.waiting := rfl
@[simp] theorem State.ioRead_ioAnswers (s : State) (p : Port) : (s.ioRead p).2.ioAnswers = s.ioAnswers.tail := rfl
@[simp] theorem State.ioRead_testAnswers (s : State) (p : Port) : (s.ioRead p).2.testAnswers = s.testAnswers := rfl
@[simp] theorem State.ioRead_samples (s : State) (p : Port) : (s.ioRead p).2.samples = s.samples := rfl
@[simp] theorem State.ioRead_trace (s : State) (p : Port) : (s.ioRead p).2.trace = s.trace ++ [.read p (s.ioAnswer p)] := rfl
@[simp] theorem State.ioRead_reg (s : State) (p : Port) (q : Reg) : (s.ioRead p).2.reg q = s.reg q := by
  cases q <;> rfl
@[simp] theorem State.ioRead_pointer (s : State) (p : Port) (q : Pointer) :
    (s.ioRead p).2.pointer q = s.pointer q := by
  cases q <;> rfl
@[simp] theorem State.ioRead_flag (s : State) (p : Port) (g : FlagName) : (s.ioRead p).2.flag g = s.flag g := rfl
@[simp] theorem State.ioRead_ramByte (s : State) (p : Port) (c : Byte) : (s.ioRead p).2.ramByte c = s.ramByte c := rfl

/-! `putZ` -/

@[simp] theorem State.putZ_build (s : State) (r : Reg) (v : Byte) : (s.putZ r v).build = s.build := by cases r <;> rfl
@[simp] theorem State.putZ_prog (s : State) (r : Reg) (v : Byte) : (s.putZ r v).prog = s.prog := by cases r <;> rfl
@[simp] theorem State.putZ_pc (s : State) (r : Reg) (v : Byte) : (s.putZ r v).pc = s.pc := by cases r <;> rfl
@[simp] theorem State.putZ_sp (s : State) (r : Reg) (v : Byte) : (s.putZ r v).sp = s.sp := by cases r <;> rfl
@[simp] theorem State.putZ_ram (s : State) (r : Reg) (v : Byte) : (s.putZ r v).ram = s.ram := by cases r <;> rfl
@[simp] theorem State.putZ_waiting (s : State) (r : Reg) (v : Byte) : (s.putZ r v).waiting = s.waiting := by cases r <;> rfl
@[simp] theorem State.putZ_ioAnswers (s : State) (r : Reg) (v : Byte) : (s.putZ r v).ioAnswers = s.ioAnswers := by cases r <;> rfl
@[simp] theorem State.putZ_testAnswers (s : State) (r : Reg) (v : Byte) : (s.putZ r v).testAnswers = s.testAnswers := by cases r <;> rfl
@[simp] theorem State.putZ_samples (s : State) (r : Reg) (v : Byte) : (s.putZ r v).samples = s.samples := by cases r <;> rfl
@[simp] theorem State.putZ_trace (s : State) (r : Reg) (v : Byte) : (s.putZ r v).trace = s.trace := by cases r <;> rfl
@[simp] theorem State.putZ_ramByte (s : State) (r : Reg) (v : Byte) (c : Byte) : (s.putZ r v).ramByte c = s.ramByte c := by
  cases r <;> rfl

/-! `shiftRight` -/

@[simp] theorem State.shiftRight_build (s : State) (r : Reg) (b : Bool) : (s.shiftRight r b).build = s.build := by cases r <;> rfl
@[simp] theorem State.shiftRight_prog (s : State) (r : Reg) (b : Bool) : (s.shiftRight r b).prog = s.prog := by cases r <;> rfl
@[simp] theorem State.shiftRight_pc (s : State) (r : Reg) (b : Bool) : (s.shiftRight r b).pc = s.pc := by cases r <;> rfl
@[simp] theorem State.shiftRight_sp (s : State) (r : Reg) (b : Bool) : (s.shiftRight r b).sp = s.sp := by cases r <;> rfl
@[simp] theorem State.shiftRight_ram (s : State) (r : Reg) (b : Bool) : (s.shiftRight r b).ram = s.ram := by cases r <;> rfl
@[simp] theorem State.shiftRight_waiting (s : State) (r : Reg) (b : Bool) : (s.shiftRight r b).waiting = s.waiting := by cases r <;> rfl
@[simp] theorem State.shiftRight_ioAnswers (s : State) (r : Reg) (b : Bool) : (s.shiftRight r b).ioAnswers = s.ioAnswers := by cases r <;> rfl
@[simp] theorem State.shiftRight_testAnswers (s : State) (r : Reg) (b : Bool) : (s.shiftRight r b).testAnswers = s.testAnswers := by cases r <;> rfl
@[simp] theorem State.shiftRight_samples (s : State) (r : Reg) (b : Bool) : (s.shiftRight r b).samples = s.samples := by cases r <;> rfl
@[simp] theorem State.shiftRight_trace (s : State) (r : Reg) (b : Bool) : (s.shiftRight r b).trace = s.trace := by cases r <;> rfl
@[simp] theorem State.shiftRight_ramByte (s : State) (r : Reg) (b : Bool) (c : Byte) : (s.shiftRight r b).ramByte c = s.ramByte c := by
  cases r <;> rfl

/-! Reading registers after writing one -/

@[simp] theorem State.reg_setReg_same (s : State) (r : Reg) (v : Byte) : (s.setReg r v).reg r = v := by
  cases r <;> rfl

theorem State.reg_setReg_ne (s : State) (r q : Reg) (v : Byte) (h : q ≠ r) :
    (s.setReg r v).reg q = s.reg q := by
  cases r <;> cases q <;> first | rfl | exact absurd rfl h

end Sys2Proof.Machine
end

