-- ==== Sys2Proof/Laws/Ops.lean ====
section
/-! SUPPORT. For each shared operation, once, everything it can do. -/

namespace Sys2Proof.Machine

@[simp] theorem finish_ok (s : State) : finish (.ok s) = .next s := rfl
@[simp] theorem finish_error (f : Fault) : finish (.error f) = .fault f := rfl

theorem finish_eq_next {r : Except Fault State} {t : State} : finish r = .next t ↔ r = .ok t := by
  cases r <;> simp [finish]

theorem finish_eq_fault {r : Except Fault State} {f : Fault} :
    finish r = .fault f ↔ r = .error f := by
  cases r <;> simp [finish]

theorem finish_ne_refused (r : Except Fault State) (f : Refusal) : finish r ≠ .refused f := by
  cases r <;> simp [finish]

/-! Program memory and RAM -/

theorem State.progRead_eq_ok {s : State} {a : ProgAddr} {v : Byte} :
    s.progRead a = .ok v ↔ a.toNat < s.build.progSize ∧ v = s.prog.read a.toNat := by
  unfold State.progRead
  split <;> simp_all [eq_comm]

theorem State.progRead_eq_error {s : State} {a : ProgAddr} {f : Fault} :
    s.progRead a = .error f ↔ s.build.progSize ≤ a.toNat ∧ f = .fetchOutsideProgram a := by
  unfold State.progRead
  split
  · simp; omega
  · simp [eq_comm]; omega

theorem State.memRead_eq_ok {s : State} {a v : Byte} :
    s.memRead a = .ok v ↔ a.toNat < s.build.ramSize ∧ v = s.ramByte a := by
  unfold State.memRead
  split <;> simp_all [eq_comm]

theorem State.memRead_eq_error {s : State} {a : Byte} {f : Fault} :
    s.memRead a = .error f ↔ s.build.ramSize ≤ a.toNat ∧ f = .outsideRam a := by
  unfold State.memRead
  split
  · simp; omega
  · simp [eq_comm]; omega

theorem State.memWrite_eq_ok {s t : State} {a v : Byte} :
    s.memWrite a v = .ok t ↔
      a.toNat < s.build.ramSize ∧ t = { s with ram := s.ram.write a.toNat v } := by
  unfold State.memWrite
  split <;> simp_all [eq_comm]

theorem State.memWrite_eq_error {s : State} {a v : Byte} {f : Fault} :
    s.memWrite a v = .error f ↔ s.build.ramSize ≤ a.toNat ∧ f = .outsideRam a := by
  unfold State.memWrite
  split
  · simp; omega
  · simp [eq_comm]; omega

/-- Reading RAM after one byte of it is written. -/
theorem State.ramByte_write (s : State) (a v c : Byte) (h : s.ram.wf) :
    State.ramByte { s with ram := s.ram.write a.toNat v } c = if c = a then v else s.ramByte c := by
  simp only [State.ramByte, Memory.read_write _ _ _ _ h.1, BitVec.toNat_inj]

/-! Direct addresses -/

/-- A direct read that answers is one of the four of 20_memory.md R56. -/
theorem State.dirRead_ok {s t : State} {a v : Byte} (h : s.dirRead a = .ok (v, t)) :
    (a.toNat ≤ 0xDF ∧ a.toNat < s.build.ramSize ∧ v = s.ramByte a ∧ t = s) ∨
    (0xE0 ≤ a.toNat ∧ a.toNat ≤ 0xEF ∧ v = s.ioAnswer (portOf a) ∧ t = (s.ioRead (portOf a)).2) ∨
    (a.toNat = 0xFE ∧ v = s.sp ∧ t = s) ∨ (a.toNat = 0xFF ∧ v = s.psw ∧ t = s) := by
  have ha := a.isLt
  unfold State.dirRead at h
  split at h
  · split at h
    · next v' hv =>
      obtain ⟨rfl, rfl⟩ : v' = v ∧ s = t := by simpa using h
      exact .inl ⟨by assumption, (State.memRead_eq_ok.1 hv).1, (State.memRead_eq_ok.1 hv).2, rfl⟩
    · simp at h
  · split at h
    · obtain ⟨rfl, rfl⟩ : (s.ioRead (portOf a)).1 = v ∧ (s.ioRead (portOf a)).2 = t := by
        simpa [Prod.ext_iff] using h
      exact .inr (.inl ⟨by omega, by assumption, rfl, rfl⟩)
    · split at h
      · simp at h
      · split at h
        · obtain ⟨rfl, rfl⟩ : s.sp = v ∧ s = t := by simpa using h
          exact .inr (.inr (.inl ⟨by assumption, rfl, rfl⟩))
        · obtain ⟨rfl, rfl⟩ : s.psw = v ∧ s = t := by simpa using h
          exact .inr (.inr (.inr ⟨by omega, rfl, rfl⟩))

/-- A direct write that answers is one of the four of 20_memory.md R57. -/
theorem State.dirWrite_ok {s t : State} {a v : Byte} (h : s.dirWrite a v = .ok t) :
    (a.toNat ≤ 0xDF ∧ a.toNat < s.build.ramSize ∧ t = { s with ram := s.ram.write a.toNat v }) ∨
    (0xE0 ≤ a.toNat ∧ a.toNat ≤ 0xEF ∧ t = s.ioWrite (portOf a) v) ∨
    (a.toNat = 0xFE ∧ t = s.setSp v) ∨ (a.toNat = 0xFF ∧ t = s.setPsw v) := by
  have ha := a.isLt
  unfold State.dirWrite at h
  split at h
  · exact .inl ⟨by assumption, State.memWrite_eq_ok.1 h⟩
  · split at h
    · exact .inr (.inl ⟨by omega, by assumption, by simpa [eq_comm] using h⟩)
    · split at h
      · simp at h
      · split at h
        · exact .inr (.inr (.inl ⟨by assumption, by simpa [eq_comm] using h⟩))
        · exact .inr (.inr (.inr ⟨by omega, by simpa [eq_comm] using h⟩))

/-- A direct access faults outside the RAM that is built and at the reserved addresses, nowhere else. -/
theorem State.dirRead_error {s : State} {a : Byte} {f : Fault} (h : s.dirRead a = .error f) :
    (a.toNat ≤ 0xDF ∧ s.build.ramSize ≤ a.toNat ∧ f = .outsideRam a) ∨
    (0xF0 ≤ a.toNat ∧ a.toNat ≤ 0xFD ∧ f = .reservedDirect a) := by
  unfold State.dirRead at h
  split at h
  · split at h
    · simp at h
    · next f' hf =>
      obtain rfl : f' = f := by simpa using h
      exact .inl ⟨by assumption, State.memRead_eq_error.1 hf⟩
  · split at h
    · simp at h
    · split at h
      · exact .inr ⟨by omega, by assumption, by simpa [eq_comm] using h⟩
      · split at h <;> simp at h

theorem State.dirWrite_error {s : State} {a v : Byte} {f : Fault} (h : s.dirWrite a v = .error f) :
    (a.toNat ≤ 0xDF ∧ s.build.ramSize ≤ a.toNat ∧ f = .outsideRam a) ∨
    (0xF0 ≤ a.toNat ∧ a.toNat ≤ 0xFD ∧ f = .reservedDirect a) := by
  unfold State.dirWrite at h
  split at h
  · exact .inl ⟨by assumption, State.memWrite_eq_error.1 h⟩
  · split at h
    · simp at h
    · split at h
      · exact .inr ⟨by omega, by assumption, by simpa [eq_comm] using h⟩
      · split at h <;> simp at h

/-! The stack -/

theorem State.pushByte_eq_ok {s t : State} {v : Byte} :
    s.pushByte v = .ok t ↔ (s.sp + 1).toNat < s.build.ramSize ∧
      t = { s with sp := s.sp + 1, ram := s.ram.write (s.sp + 1).toNat v } :=
  State.memWrite_eq_ok

theorem State.pushByte_eq_error {s : State} {v : Byte} {f : Fault} :
    s.pushByte v = .error f ↔ s.build.ramSize ≤ (s.sp + 1).toNat ∧ f = .outsideRam (s.sp + 1) :=
  State.memWrite_eq_error

theorem State.popByte_eq_ok {s t : State} {v : Byte} :
    s.popByte = .ok (v, t) ↔
      s.sp.toNat < s.build.ramSize ∧ v = s.ramByte s.sp ∧ t = s.setSp (s.sp - 1) := by
  unfold State.popByte State.memRead
  split <;> split at * <;> simp_all [eq_comm]

theorem State.popByte_eq_error {s : State} {f : Fault} :
    s.popByte = .error f ↔ s.build.ramSize ≤ s.sp.toNat ∧ f = .outsideRam s.sp := by
  unfold State.popByte
  split
  · next v hv => simpa using fun h _ => absurd (State.memRead_eq_ok.1 hv).1 (by omega)
  · next f' hf =>
    obtain ⟨h1, h2⟩ := State.memRead_eq_error.1 hf
    simp [h1, h2, eq_comm]

theorem State.pushPc_eq_ok {s t : State} :
    s.pushPc = .ok t ↔ (s.sp + 1).toNat < s.build.ramSize ∧ (s.sp + 1 + 1).toNat < s.build.ramSize ∧
      t = { s with
            sp := s.sp + 1 + 1
            ram := (s.ram.write (s.sp + 1).toNat s.pcLow).write (s.sp + 1 + 1).toNat s.pcHigh } := by
  unfold State.pushPc
  split
  · next s1 h1 =>
    obtain ⟨hlt, rfl⟩ := State.pushByte_eq_ok.1 h1
    rw [State.pushByte_eq_ok]
    exact ⟨fun h => ⟨hlt, h⟩, fun h => h.2⟩
  · next f hf =>
    have h := (State.pushByte_eq_error.1 hf).1
    simp only [reduceCtorEq, false_iff]
    intro h'
    omega

theorem State.pushPc_error {s : State} {f : Fault} (h : s.pushPc = .error f) :
    ∃ a, f = .outsideRam a ∧ s.build.ramSize ≤ a.toNat := by
  unfold State.pushPc at h
  split at h
  · next s1 h1 =>
    obtain ⟨-, rfl⟩ := State.pushByte_eq_ok.1 h1
    obtain ⟨h1, h2⟩ := State.pushByte_eq_error.1 h
    exact ⟨_, h2, h1⟩
  · next f' hf =>
    obtain ⟨h1, h2⟩ := State.pushByte_eq_error.1 hf
    obtain rfl : f' = f := by simpa using h
    exact ⟨_, h2, h1⟩

/-! Sources and the operations over them -/

@[simp] theorem srcReg_eq (rs : Reg) (s : State) : srcReg rs s = .ok (s.reg rs, s) := rfl
@[simp] theorem srcImm_eq (b : Byte) (s : State) : srcImm b s = .ok (b, s) := rfl
@[simp] theorem srcDir_eq (a : Byte) (s : State) : srcDir a s = s.dirRead a := rfl

theorem srcInd_eq_ok {ri : Pointer} {s t : State} {v : Byte} :
    srcInd ri s = .ok (v, t) ↔
      (s.pointer ri).toNat < s.build.ramSize ∧ v = s.ramByte (s.pointer ri) ∧ t = s := by
  unfold srcInd State.memRead
  split <;> split at * <;> simp_all [eq_comm]

theorem srcInd_eq_error {ri : Pointer} {s : State} {f : Fault} :
    srcInd ri s = .error f ↔
      s.build.ramSize ≤ (s.pointer ri).toNat ∧ f = .outsideRam (s.pointer ri) := by
  unfold srcInd
  split
  · next v hv => simpa using fun h _ => absurd (State.memRead_eq_ok.1 hv).1 (by omega)
  · next f' hf =>
    obtain ⟨h1, h2⟩ := State.memRead_eq_error.1 hf
    simp [h1, h2, eq_comm]

theorem moveInto_eq_ok {rd : Reg} {src : Source} {s t : State} :
    moveInto rd src s = .ok t ↔ ∃ b s1, src s = .ok (b, s1) ∧ t = s1.setReg rd b := by
  unfold moveInto
  split <;> simp_all [eq_comm]

theorem moveInto_eq_error {rd : Reg} {src : Source} {s : State} {f : Fault} :
    moveInto rd src s = .error f ↔ src s = .error f := by
  unfold moveInto
  split <;> simp_all

theorem anlInto_eq_ok {rd : Reg} {src : Source} {s t : State} :
    anlInto rd src s = .ok t ↔ ∃ b s1, src s = .ok (b, s1) ∧
      t = (s1.setReg rd (anlValue (s.reg rd) b)).setZS (anlValue (s.reg rd) b) := by
  unfold anlInto
  split <;> simp_all [eq_comm]

theorem anlInto_eq_error {rd : Reg} {src : Source} {s : State} {f : Fault} :
    anlInto rd src s = .error f ↔ src s = .error f := by
  unfold anlInto
  split <;> simp_all

theorem arithInto_eq_ok {law : Byte → Byte → AluOut} {rd : Reg} {src : Source} {s t : State} :
    arithInto law rd src s = .ok t ↔ ∃ b s1, src s = .ok (b, s1) ∧
      t = (s1.setReg rd (law (s.reg rd) b).value).setCVZS (law (s.reg rd) b) := by
  unfold arithInto
  split <;> simp_all [eq_comm]

theorem arithInto_eq_error {law : Byte → Byte → AluOut} {rd : Reg} {src : Source} {s : State}
    {f : Fault} : arithInto law rd src s = .error f ↔ src s = .error f := by
  unfold arithInto
  split <;> simp_all

end Sys2Proof.Machine
end

