-- ==== Sys2Proof/Laws/PerInstr.lean ====
section
/-! SUPPORT. Facts about the syntax of every instruction, one lemma per constructor. -/

namespace Sys2Proof.Laws

/-- The encoding of a well-formed instruction is as long as its first byte says (30_encoding.md R90,
R91); a reserved code is one byte (R107). -/
def EncodedLength.Statement (i : Instr) : Prop :=
  ∀ long : Bool, i.wf long = true →
    ∃ b1 tail, encode i = b1 :: tail ∧ tail.length + 1 = instrLength long b1

theorem EncodedLength.nop : EncodedLength.Statement .nop := by
  intro long _
  cases long <;> exact ⟨_, _, rfl, rfl⟩
theorem EncodedLength.movRegReg (rd rs : Reg) : EncodedLength.Statement (.movRegReg rd rs) := by
  intro long _
  cases rd <;> cases rs <;> cases long <;> exact ⟨_, _, rfl, rfl⟩
theorem EncodedLength.movRegInd (rd : Reg) (ri : Pointer) : EncodedLength.Statement (.movRegInd rd ri) := by
  intro long _
  cases rd <;> cases ri <;> cases long <;> exact ⟨_, _, rfl, rfl⟩
theorem EncodedLength.movRegImm (rd : Reg) (imm : Byte) : EncodedLength.Statement (.movRegImm rd imm) := by
  intro long _
  cases rd <;> cases long <;> exact ⟨_, _, rfl, rfl⟩
theorem EncodedLength.movRegDir (rd : Reg) (dir : Byte) : EncodedLength.Statement (.movRegDir rd dir) := by
  intro long _
  cases rd <;> cases long <;> exact ⟨_, _, rfl, rfl⟩
theorem EncodedLength.anlRegReg (rd rs : Reg) : EncodedLength.Statement (.anlRegReg rd rs) := by
  intro long _
  cases rd <;> cases rs <;> cases long <;> exact ⟨_, _, rfl, rfl⟩
theorem EncodedLength.anlRegInd (rd : Reg) (ri : Pointer) : EncodedLength.Statement (.anlRegInd rd ri) := by
  intro long _
  cases rd <;> cases ri <;> cases long <;> exact ⟨_, _, rfl, rfl⟩
theorem EncodedLength.anlRegImm (rd : Reg) (imm : Byte) : EncodedLength.Statement (.anlRegImm rd imm) := by
  intro long _
  cases rd <;> cases long <;> exact ⟨_, _, rfl, rfl⟩
theorem EncodedLength.anlRegDir (rd : Reg) (dir : Byte) : EncodedLength.Statement (.anlRegDir rd dir) := by
  intro long _
  cases rd <;> cases long <;> exact ⟨_, _, rfl, rfl⟩
theorem EncodedLength.addRegReg (rd rs : Reg) : EncodedLength.Statement (.addRegReg rd rs) := by
  intro long _
  cases rd <;> cases rs <;> cases long <;> exact ⟨_, _, rfl, rfl⟩
theorem EncodedLength.addRegInd (rd : Reg) (ri : Pointer) : EncodedLength.Statement (.addRegInd rd ri) := by
  intro long _
  cases rd <;> cases ri <;> cases long <;> exact ⟨_, _, rfl, rfl⟩
theorem EncodedLength.addRegImm (rd : Reg) (imm : Byte) : EncodedLength.Statement (.addRegImm rd imm) := by
  intro long _
  cases rd <;> cases long <;> exact ⟨_, _, rfl, rfl⟩
theorem EncodedLength.addRegDir (rd : Reg) (dir : Byte) : EncodedLength.Statement (.addRegDir rd dir) := by
  intro long _
  cases rd <;> cases long <;> exact ⟨_, _, rfl, rfl⟩
theorem EncodedLength.subRegReg (rd rs : Reg) : EncodedLength.Statement (.subRegReg rd rs) := by
  intro long _
  cases rd <;> cases rs <;> cases long <;> exact ⟨_, _, rfl, rfl⟩
theorem EncodedLength.subRegInd (rd : Reg) (ri : Pointer) : EncodedLength.Statement (.subRegInd rd ri) := by
  intro long _
  cases rd <;> cases ri <;> cases long <;> exact ⟨_, _, rfl, rfl⟩
theorem EncodedLength.subRegImm (rd : Reg) (imm : Byte) : EncodedLength.Statement (.subRegImm rd imm) := by
  intro long _
  cases rd <;> cases long <;> exact ⟨_, _, rfl, rfl⟩
theorem EncodedLength.subRegDir (rd : Reg) (dir : Byte) : EncodedLength.Statement (.subRegDir rd dir) := by
  intro long _
  cases rd <;> cases long <;> exact ⟨_, _, rfl, rfl⟩
theorem EncodedLength.movIndReg (ri : Pointer) (rs : Reg) : EncodedLength.Statement (.movIndReg ri rs) := by
  intro long _
  cases ri <;> cases rs <;> cases long <;> exact ⟨_, _, rfl, rfl⟩
theorem EncodedLength.movDirReg (dir : Byte) (rs : Reg) : EncodedLength.Statement (.movDirReg dir rs) := by
  intro long _
  cases rs <;> cases long <;> exact ⟨_, _, rfl, rfl⟩
theorem EncodedLength.jmp (adr10 : BitVec 10) : EncodedLength.Statement (.jmp adr10) := by
  have key : ∀ (x : BitVec 2) (l : Bool), 2 = instrLength l (0b101000#6 ++ x) := by decide
  exact fun long _ => ⟨_, _, rfl, key _ long⟩
theorem EncodedLength.ljmp (adr16 : BitVec 16) : EncodedLength.Statement (.ljmp adr16) := by
  intro long h
  obtain rfl : long = true := h
  exact ⟨_, _, rfl, rfl⟩
theorem EncodedLength.jf (flag : FlagName) (adr8 : Byte) : EncodedLength.Statement (.jf flag adr8) := by
  intro long _
  cases flag <;> cases long <;> exact ⟨_, _, rfl, rfl⟩
theorem EncodedLength.jt (flag : FlagName) (adr8 : Byte) : EncodedLength.Statement (.jt flag adr8) := by
  intro long _
  cases flag <;> cases long <;> exact ⟨_, _, rfl, rfl⟩
theorem EncodedLength.call (adr10 : BitVec 10) : EncodedLength.Statement (.call adr10) := by
  have key : ∀ (x : BitVec 2) (l : Bool), 2 = instrLength l (0b101100#6 ++ x) := by decide
  exact fun long _ => ⟨_, _, rfl, key _ long⟩
theorem EncodedLength.lcall (adr16 : BitVec 16) : EncodedLength.Statement (.lcall adr16) := by
  intro long h
  obtain rfl : long = true := h
  exact ⟨_, _, rfl, rfl⟩
theorem EncodedLength.ret : EncodedLength.Statement .ret := by
  intro long _
  cases long <;> exact ⟨_, _, rfl, rfl⟩
theorem EncodedLength.push (rs : Reg) : EncodedLength.Statement (.push rs) := by
  intro long _
  cases rs <;> cases long <;> exact ⟨_, _, rfl, rfl⟩
theorem EncodedLength.pop (rd : Reg) : EncodedLength.Statement (.pop rd) := by
  intro long _
  cases rd <;> cases long <;> exact ⟨_, _, rfl, rfl⟩
theorem EncodedLength.inc (rd : Reg) : EncodedLength.Statement (.inc rd) := by
  intro long _
  cases rd <;> cases long <;> exact ⟨_, _, rfl, rfl⟩
theorem EncodedLength.dec (rd : Reg) : EncodedLength.Statement (.dec rd) := by
  intro long _
  cases rd <;> cases long <;> exact ⟨_, _, rfl, rfl⟩
theorem EncodedLength.srl (rd : Reg) : EncodedLength.Statement (.srl rd) := by
  intro long _
  cases rd <;> cases long <;> exact ⟨_, _, rfl, rfl⟩
theorem EncodedLength.sra (rd : Reg) : EncodedLength.Statement (.sra rd) := by
  intro long _
  cases rd <;> cases long <;> exact ⟨_, _, rfl, rfl⟩
theorem EncodedLength.rrc (rd : Reg) : EncodedLength.Statement (.rrc rd) := by
  intro long _
  cases rd <;> cases long <;> exact ⟨_, _, rfl, rfl⟩
theorem EncodedLength.cplReg (rd : Reg) : EncodedLength.Statement (.cplReg rd) := by
  intro long _
  cases rd <;> cases long <;> exact ⟨_, _, rfl, rfl⟩
theorem EncodedLength.clr (flag : FlagName) : EncodedLength.Statement (.clr flag) := by
  intro long _
  cases flag <;> cases long <;> exact ⟨_, _, rfl, rfl⟩
theorem EncodedLength.setb (flag : FlagName) : EncodedLength.Statement (.setb flag) := by
  intro long _
  cases flag <;> cases long <;> exact ⟨_, _, rfl, rfl⟩
theorem EncodedLength.cplFlag (flag : FlagName) : EncodedLength.Statement (.cplFlag flag) := by
  intro long _
  cases flag <;> cases long <;> exact ⟨_, _, rfl, rfl⟩
theorem EncodedLength.wait (test : TestPin) : EncodedLength.Statement (.wait test) := by
  intro long _
  cases test <;> cases long <;> exact ⟨_, _, rfl, rfl⟩
theorem EncodedLength.reserved1000 (x : BitVec 4) : EncodedLength.Statement (.reserved1000 x) := by
  revert x
  unfold EncodedLength.Statement
  simp only [encode, List.cons.injEq]
  intro x long h
  refine ⟨_, _, ⟨rfl, rfl⟩, ?_⟩
  revert x long
  decide
theorem EncodedLength.reserved100110 (x : BitVec 2) : EncodedLength.Statement (.reserved100110 x) := by
  revert x
  unfold EncodedLength.Statement
  simp only [encode, List.cons.injEq]
  intro x long h
  refine ⟨_, _, ⟨rfl, rfl⟩, ?_⟩
  revert x long
  decide
theorem EncodedLength.reserved101001 (x : BitVec 2) : EncodedLength.Statement (.reserved101001 x) := by
  revert x
  unfold EncodedLength.Statement
  simp only [encode, List.cons.injEq]
  intro x long h
  refine ⟨_, _, ⟨rfl, rfl⟩, ?_⟩
  revert x long
  decide
theorem EncodedLength.reserved101101 (x : BitVec 2) : EncodedLength.Statement (.reserved101101 x) := by
  revert x
  unfold EncodedLength.Statement
  simp only [encode, List.cons.injEq]
  intro x long h
  refine ⟨_, _, ⟨rfl, rfl⟩, ?_⟩
  revert x long
  decide
theorem EncodedLength.reserved10111001 : EncodedLength.Statement .reserved10111001 := by
  intro long _
  cases long <;> exact ⟨_, _, rfl, rfl⟩
theorem EncodedLength.reserved1011101 (x : BitVec 1) : EncodedLength.Statement (.reserved1011101 x) := by
  revert x
  unfold EncodedLength.Statement
  simp only [encode, List.cons.injEq]
  intro x long h
  refine ⟨_, _, ⟨rfl, rfl⟩, ?_⟩
  revert x long
  decide
theorem EncodedLength.reserved101111 (x : BitVec 2) : EncodedLength.Statement (.reserved101111 x) := by
  revert x
  unfold EncodedLength.Statement
  simp only [encode, List.cons.injEq]
  intro x long h
  refine ⟨_, _, ⟨rfl, rfl⟩, ?_⟩
  revert x long
  decide
theorem EncodedLength.reserved111011 (x : BitVec 2) : EncodedLength.Statement (.reserved111011 x) := by
  revert x
  unfold EncodedLength.Statement
  simp only [encode, List.cons.injEq]
  intro x long h
  refine ⟨_, _, ⟨rfl, rfl⟩, ?_⟩
  revert x long
  decide
theorem EncodedLength.reserved111101 (x : BitVec 2) : EncodedLength.Statement (.reserved111101 x) := by
  revert x
  unfold EncodedLength.Statement
  simp only [encode, List.cons.injEq]
  intro x long h
  refine ⟨_, _, ⟨rfl, rfl⟩, ?_⟩
  revert x long
  decide
theorem EncodedLength.reserved11111 (x : BitVec 3) : EncodedLength.Statement (.reserved11111 x) := by
  revert x
  unfold EncodedLength.Statement
  simp only [encode, List.cons.injEq]
  intro x long h
  refine ⟨_, _, ⟨rfl, rfl⟩, ?_⟩
  revert x long
  decide

end Sys2Proof.Laws
end

