-- ==== Sys2Proof/Laws/Sources.lean ====
section
/-! SUPPORT. The second operand as the claims describe it (`Operand.Delivers`) and as the meanings read
it (`Source`) are the same. -/

namespace Sys2Proof.Machine

theorem KeepsEnv.refl (s : State) : KeepsEnv s s := ⟨rfl, rfl, rfl, rfl⟩

theorem KeepsConstants.refl (s : State) : KeepsConstants s s := ⟨rfl, rfl, rfl⟩

/-- The port of a direct address is its distance from 0E0h (20_memory.md R59). -/
theorem portOf_eq (a : Byte) (h : 0xE0 ≤ a.toNat) (h' : a.toNat ≤ 0xEF) :
    portOf a = BitVec.ofNat 4 (a.toNat - 0xE0) := by
  apply BitVec.eq_of_toNat_eq
  simp only [portOf, BitVec.extractLsb'_toNat, BitVec.toNat_ofNat, Nat.shiftRight_zero]
  omega

/-- The source that reads an operand. -/
def Operand.source : Operand → Source
  | .reg rs => srcReg rs
  | .ind ri => srcInd ri
  | .imm b => srcImm b
  | .dir a => srcDir a

/-- What reading an operand changes: nothing, or what one read action changes. -/
theorem Operand.source_ok {o : Operand} {s s1 : State} {b : Byte} (h : o.source s = .ok (b, s1)) :
    s1 = s ∨ ∃ p, s1 = (s.ioRead p).2 := by
  cases o with
  | reg rs => exact .inl (by simpa [Operand.source] using (Prod.ext_iff.1 (Except.ok.inj h)).2.symm)
  | ind ri => exact .inl (srcInd_eq_ok.1 h).2.2
  | imm b => exact .inl (by simpa [Operand.source] using (Prod.ext_iff.1 (Except.ok.inj h)).2.symm)
  | dir a =>
    rcases State.dirRead_ok h with h | h | h | h
    · exact .inl h.2.2.2
    · exact .inr ⟨_, h.2.2.2⟩
    · exact .inl h.2.2
    · exact .inl h.2.2

/-- An operand that delivers a byte is read: the byte, and the state with the environment's side as the
claims have it and all else as before. -/
theorem Operand.source_of_delivers {o : Operand} {s : State} {v : Byte} (h : o.Delivers s v) :
    ∃ s1, o.source s = .ok (v, s1) ∧ (∀ r, s1.reg r = s.reg r) ∧ s1.psw = s.psw ∧ s1.sp = s.sp ∧
      s1.pc = s.pc ∧ s1.ram = s.ram ∧ KeepsConstants s s1 ∧ o.EnvAfter s s1 v := by
  cases o with
  | reg rs =>
    exact ⟨s, by rw [show v = s.reg rs from h]; rfl, fun _ => rfl, rfl, rfl, rfl, rfl, .refl s, .refl s⟩
  | imm b =>
    exact ⟨s, by rw [show v = b from h]; rfl, fun _ => rfl, rfl, rfl, rfl, rfl, .refl s, .refl s⟩
  | ind ri =>
    exact ⟨s, srcInd_eq_ok.2 ⟨h.1, h.2, rfl⟩, fun _ => rfl, rfl, rfl, rfl, rfl, .refl s, .refl s⟩
  | dir a =>
    rcases h with ⟨h1, h2, h3⟩ | ⟨h1, h2, h3⟩ | ⟨h1, h3⟩ | ⟨h1, h3⟩
    · refine ⟨s, ?_, fun _ => rfl, rfl, rfl, rfl, rfl, .refl s, ?_⟩
      · simp [Operand.source, State.dirRead, h1, State.memRead, h2, h3]
      · rw [Operand.EnvAfter, if_neg (by omega)]; exact .refl s
    · refine ⟨(s.ioRead (portOf a)).2, ?_, by simp, rfl, rfl, rfl, rfl, ⟨rfl, rfl, rfl⟩, ?_⟩
      · rw [h3, ← portOf_eq a h1 h2, Operand.source, srcDir_eq, State.dirRead, if_neg (by omega),
          if_pos h2]
        rfl
      · rw [Operand.EnvAfter, if_pos ⟨h1, h2⟩, h3, ← portOf_eq a h1 h2]
        exact ⟨rfl, rfl, rfl, rfl⟩
    · refine ⟨s, ?_, fun _ => rfl, rfl, rfl, rfl, rfl, .refl s, ?_⟩
      · simp [Operand.source, State.dirRead, h1, h3]
      · rw [Operand.EnvAfter, if_neg (by omega)]; exact .refl s
    · refine ⟨s, ?_, fun _ => rfl, rfl, rfl, rfl, rfl, .refl s, ?_⟩
      · simp [Operand.source, State.dirRead, h1, h3]
      · rw [Operand.EnvAfter, if_neg (by omega)]; exact .refl s

/-- `EnvAfter` looks at the environment's side of the state alone. -/
theorem Operand.envAfter_congr {o : Operand} {s t u : State} {v : Byte} (h : o.EnvAfter s t v)
    (h1 : u.trace = t.trace) (h2 : u.ioAnswers = t.ioAnswers) (h3 : u.testAnswers = t.testAnswers)
    (h4 : u.samples = t.samples) : o.EnvAfter s u v := by
  cases o <;> simp_all [Operand.EnvAfter, KeepsEnv]

end Sys2Proof.Machine
end

