-- ==== Sys2Proof/Laws/Step.lean ====
section
/-! SUPPORT. What a fetch and a step can do. -/

namespace Sys2Proof.Machine

theorem State.fetchByte_eq_ok {s t : State} {b : Byte} :
    s.fetchByte = .ok (b, t) ↔ s.pc.toNat < s.build.progSize ∧ b = s.prog.read s.pc.toNat ∧
      t = { s with pc := s.nextAddr s.pc } := by
  unfold State.fetchByte State.progRead
  split <;> split at * <;> simp_all [eq_comm]

theorem State.fetchByte_eq_error {s : State} {f : Fault} :
    s.fetchByte = .error f ↔ s.build.progSize ≤ s.pc.toNat ∧ f = .fetchOutsideProgram s.pc := by
  unfold State.fetchByte
  split
  · next v hv => simpa using fun h _ => absurd (State.progRead_eq_ok.1 hv).1 (by omega)
  · next f' hf =>
    obtain ⟨h1, h2⟩ := State.progRead_eq_error.1 hf
    simp [h1, h2, eq_comm]

/-- A fetch changes the PC alone. -/
theorem State.fetch_ok {s t : State} {i : Instr} (h : s.fetch = .ok (i, t)) :
    ∃ a, t = { s with pc := cutPc s.build.pcWidth a } := by
  unfold State.fetch at h
  split at h
  · simp at h
  · next b1 s1 h1 =>
    obtain ⟨-, -, rfl⟩ := State.fetchByte_eq_ok.1 h1
    split at h
    · obtain ⟨-, rfl⟩ : _ ∧ _ = t := by simpa using h
      exact ⟨_, rfl⟩
    · split at h
      · simp at h
      · next b2 s2 h2 =>
        obtain ⟨-, -, rfl⟩ := State.fetchByte_eq_ok.1 h2
        split at h
        · obtain ⟨-, rfl⟩ : _ ∧ _ = t := by simpa using h
          exact ⟨_, rfl⟩
        · split at h
          · simp at h
          · next b3 s3 h3 =>
            obtain ⟨-, -, rfl⟩ := State.fetchByte_eq_ok.1 h3
            obtain ⟨-, rfl⟩ : _ ∧ _ = t := by simpa using h
            exact ⟨_, rfl⟩

/-- A fetch faults only outside the program memory. -/
theorem State.fetch_error {s : State} {f : Fault} (h : s.fetch = .error f) :
    ∃ a : ProgAddr, f = .fetchOutsideProgram a ∧ s.build.progSize ≤ a.toNat := by
  have key : ∀ {u : State}, u.build = s.build → u.fetchByte = .error f →
      ∃ a : ProgAddr, f = .fetchOutsideProgram a ∧ s.build.progSize ≤ a.toNat := fun hb hu =>
    ⟨_, (State.fetchByte_eq_error.1 hu).2, hb ▸ (State.fetchByte_eq_error.1 hu).1⟩
  unfold State.fetch at h
  split at h
  · next f' h1 =>
    obtain rfl : f' = f := by simpa using h
    exact key rfl h1
  · next b1 s1 h1 =>
    obtain ⟨-, -, rfl⟩ := State.fetchByte_eq_ok.1 h1
    split at h
    · simp at h
    · split at h
      · next f' h2 =>
        obtain rfl : f' = f := by simpa using h
        exact key (by rfl) h2
      · next b2 s2 h2 =>
        obtain ⟨-, -, rfl⟩ := State.fetchByte_eq_ok.1 h2
        split at h
        · simp at h
        · split at h
          · next f' h3 =>
            obtain rfl : f' = f := by simpa using h
            exact key (by rfl) h3
          · simp at h

/-- A step that answers is a sampling of a held processor, or a fetch and then the instruction. -/
theorem step_eq_next {s t : State} :
    step s = .next t ↔ (∃ p, s.waiting = some p ∧ t = s.sampleWait p) ∨
      (s.waiting = none ∧ ∃ i s1, s.fetch = .ok (i, s1) ∧ exec i s1 = .next t) := by
  unfold step
  split
  · next p hp => simp [heldStep, hp, eq_comm]
  · next hw =>
    simp only [hw, reduceCtorEq, false_and, exists_false, true_and, false_or]
    split
    · next i s1 h1 => simp [h1]
    · next f h1 => simp [h1]

/-- A step that faults is a fetch that faults, or a fetch and then an instruction that faults. -/
theorem step_eq_fault {s : State} {f : Fault} :
    step s = .fault f ↔ s.waiting = none ∧
      (s.fetch = .error f ∨ ∃ i s1, s.fetch = .ok (i, s1) ∧ exec i s1 = .fault f) := by
  unfold step
  split
  · next p hp => simp [heldStep, hp]
  · next hw =>
    simp only [hw, true_and]
    split
    · next i s1 h1 => simp [h1]
    · next f' h1 => simp [h1]

end Sys2Proof.Machine
end

