-- ==== Sys2Proof/Laws/Unary.lean ====
section
/-! SUPPORT. The two shared operations of the one-register instructions, and the arithmetic laws as
statements about numbers. -/

namespace Sys2Proof.Machine

/-- V of ADD as the range of the signed sum (41_alu.md R131). -/
theorem addLaw_v (a b : Byte) :
    (addLaw a b).v = true ↔ a.toInt + b.toInt < -128 ∨ 127 < a.toInt + b.toInt := by
  simp only [addLaw, BitVec.msb_eq_decide, BitVec.toInt_eq_toNat_cond]
  have ha := a.isLt
  have hb := b.isLt
  simp only [BitVec.toNat_ofNat]
  generalize a.toNat = x at *
  generalize b.toNat = y at *
  split <;> split <;> by_cases h : 128 ≤ (x + y) % 256 <;> simp [h] <;> omega

/-- V of SUB as the range of the signed difference (41_alu.md R132). -/
theorem subLaw_v (a b : Byte) :
    (subLaw a b).v = true ↔ a.toInt - b.toInt < -128 ∨ 127 < a.toInt - b.toInt := by
  simp only [subLaw, BitVec.msb_eq_decide, BitVec.toInt_eq_toNat_cond]
  have ha := a.isLt
  have hb := b.isLt
  simp [BitVec.toNat_sub]
  generalize a.toNat = x at *
  generalize b.toNat = y at *
  split <;> split <;> by_cases h : 128 ≤ (256 - y + x) % 256 <;> simp [h] <;> omega

theorem shiftRightIn_toNat (top : Bool) (a : Byte) :
    (shiftRightIn top a).toNat = a.toNat / 2 + (if top then 128 else 0) := by
  revert top a; decide

theorem getLsbD_shiftRightIn (top : Bool) (a : Byte) (n : Nat) :
    (shiftRightIn top a).getLsbD n = if n < 7 then a.getLsbD (n + 1) else n == 7 && top := by
  unfold shiftRightIn
  rw [BitVec.getLsbD_append]
  by_cases h : n < 7
  · simp [h, Nat.add_comm]
  · by_cases h7 : n = 7
    · subst h7; cases top <;> rfl
    · have h8 : ¬ n - 7 < 1 := by omega
      simp only [h, if_false, BitVec.getLsbD_of_ge _ _ (Nat.le_of_not_lt h8), beq_eq_false_iff_ne.2 h7,
        Bool.false_and]

/-- What an operation that writes a register and Z does and leaves (44_unary.md R170, R171). -/
theorem State.putZ_spec (s : State) (rd : Reg) (v : Byte) :
    (s.putZ rd v).reg rd = v ∧ ((s.putZ rd v).flag .z = true ↔ v = 0) ∧
      KeepsFlags s (s.putZ rd v) [.z] ∧ KeepsRegs s (s.putZ rd v) [rd] := by
  refine ⟨by simp [State.putZ], by simp [State.putZ, State.setZ], ⟨?_, ?_⟩, ?_⟩
  · intro f hf
    rw [State.putZ, State.setZ, State.flag_setFlag_ne _ _ _ _ (by simpa using hf)]
    simp
  · simp [State.putZ]
  · intro r hr
    simp only [State.putZ, State.setZ_reg]
    exact State.reg_setReg_ne _ _ _ _ (by simpa using hr)

/-- What a shift does and leaves (44_unary.md R172 to R174). -/
theorem State.shiftRight_spec (s : State) (rd : Reg) (top : Bool) :
    (s.shiftRight rd top).reg rd = shiftRightIn top (s.reg rd) ∧
      (s.shiftRight rd top).flag .c = (s.reg rd).getLsbD 0 ∧
      KeepsFlags s (s.shiftRight rd top) [.c] ∧ KeepsRegs s (s.shiftRight rd top) [rd] := by
  refine ⟨by simp [State.shiftRight], by simp [State.shiftRight], ⟨?_, ?_⟩, ?_⟩
  · intro f hf
    rw [State.shiftRight, State.flag_setFlag_ne _ _ _ _ (by simpa using hf)]
    simp
  · simp [State.shiftRight]
  · intro r hr
    simp only [State.shiftRight, State.setFlag_reg]
    exact State.reg_setReg_ne _ _ _ _ (by simpa using hr)

end Sys2Proof.Machine
end

