-- ==== Sys2Proof/Tests/Slice0.lean ====
section
/-! SUPPORT. Tests. Expected values come from the spec: the encodings of 30_encoding.md R93 and R115, the
examples of the instruction rules, and the rows (M1, A1, J1, ...) of 95_test_vectors.md. The
theorems `test_witness_…` show that the hypotheses of the statement they name can be met. -/

namespace Sys2Proof.Tests

open Sys2Proof.Machine

/-! ## Helpers -/

/-- A program memory with these bytes from address `a` on. -/
def image (a : Nat) : List Byte → Memory
  | [] => []
  | b :: bs => Memory.write (image (a + 1) bs) a b

/-- The base build at address 0 with these bytes there, all else as after reset. -/
def base (bytes : List Byte) : State := { State.reset with prog := image 0 bytes }

/-- The stretched build with `pc` at `a` and these bytes there. -/
def stretched (a : ProgAddr) (bytes : List Byte) : State :=
  { State.reset with build := Build.stretched, pc := a, prog := image a.toNat bytes }

/-- The next state of an outcome, if it has one. -/
def next? : Host.Outcome State Fault Refusal → Option State
  | .next t => some t
  | _ => none

/-- The fault of an outcome, if it is one. -/
def fault? : Host.Outcome State Fault Refusal → Option Fault
  | .fault f => some f
  | _ => none

/-- A view of the state after a step. -/
def look {α : Type} (f : State → α) (s : State) : Option α := (next? (step s)).map f

/-! ## Well-formedness: one ill-formed term for each check (WellFormed.lean) -/

theorem test_wf_nop_is_not_mov : (Instr.movRegReg .r0 .r0).wf true = false := by decide
theorem test_wf_ljmp_needs_long : (Instr.ljmp 0x1234).wf false = false := by decide
theorem test_wf_lcall_needs_long : (Instr.lcall 0x1234).wf false = false := by decide
theorem test_wf_a4_is_ljmp : (Instr.reserved101001 0).wf true = false := by decide
theorem test_wf_b4_is_lcall : (Instr.reserved101101 0).wf true = false := by decide

/-! ## Decoding: a word of every row, bit by bit (30_encoding.md R93, R105, R106) -/

theorem test_decode_nop : decodeTableWord 8 0b00000000 = some (.nop) := by decide
theorem test_decode_movRegReg : decodeTableWord 8 0b00001011 = some (.movRegReg .r3 .r2) := by decide
theorem test_decode_movRegInd : decodeTableWord 8 0b00010110 = some (.movRegInd .r2 .r1) := by decide
theorem test_decode_movRegImm : decodeTableWord 16 0b10000000_00011011 = some (.movRegImm .r3 0x80) := by decide
theorem test_decode_movRegDir : decodeTableWord 16 0b11111110_00011110 = some (.movRegDir .r2 0xFE) := by decide
theorem test_decode_anlRegReg : decodeTableWord 8 0b00100111 = some (.anlRegReg .r3 .r1) := by decide
theorem test_decode_anlRegInd : decodeTableWord 8 0b00110101 = some (.anlRegInd .r1 .r1) := by decide
theorem test_decode_anlRegImm : decodeTableWord 16 0b00001111_00111010 = some (.anlRegImm .r2 0x0F) := by decide
theorem test_decode_anlRegDir : decodeTableWord 16 0b11101010_00111111 = some (.anlRegDir .r3 0xEA) := by decide
theorem test_decode_addRegReg : decodeTableWord 8 0b01001101 = some (.addRegReg .r1 .r3) := by decide
theorem test_decode_addRegInd : decodeTableWord 8 0b01010010 = some (.addRegInd .r2 .r0) := by decide
theorem test_decode_addRegImm : decodeTableWord 16 0b00000001_01011001 = some (.addRegImm .r1 0x01) := by decide
theorem test_decode_addRegDir : decodeTableWord 16 0b00100000_01011100 = some (.addRegDir .r0 0x20) := by decide
theorem test_decode_subRegReg : decodeTableWord 8 0b01100001 = some (.subRegReg .r1 .r0) := by decide
theorem test_decode_subRegInd : decodeTableWord 8 0b01110111 = some (.subRegInd .r3 .r1) := by decide
theorem test_decode_subRegImm : decodeTableWord 16 0b00000001_01111000 = some (.subRegImm .r0 0x01) := by decide
theorem test_decode_subRegDir : decodeTableWord 16 0b11111111_01111101 = some (.subRegDir .r1 0xFF) := by decide
theorem test_decode_movIndReg : decodeTableWord 8 0b10010110 = some (.movIndReg .r1 .r2) := by decide
theorem test_decode_movDirReg : decodeTableWord 16 0b11100101_10011111 = some (.movDirReg 0xE5 .r3) := by decide
theorem test_decode_jmp : decodeTableWord 16 0b00110100_10100010 = some (.jmp 0x234) := by decide
theorem test_decode_ljmp : decodeTableWord 24 0b10101011_11001101_10100100 = some (.ljmp 0xABCD) := by decide
theorem test_decode_jf : decodeTableWord 16 0b01000000_10101010 = some (.jf .z 0x40) := by decide
theorem test_decode_jt : decodeTableWord 16 0b00000000_10101101 = some (.jt .v 0x00) := by decide
theorem test_decode_call : decodeTableWord 16 0b00010000_10110010 = some (.call 0x210) := by decide
theorem test_decode_lcall : decodeTableWord 24 0b10000000_00000001_10110100 = some (.lcall 0x8001) := by decide
theorem test_decode_ret : decodeTableWord 8 0b10111000 = some (.ret) := by decide
theorem test_decode_push : decodeTableWord 8 0b11000011 = some (.push .r3) := by decide
theorem test_decode_pop : decodeTableWord 8 0b11000101 = some (.pop .r1) := by decide
theorem test_decode_inc : decodeTableWord 8 0b11001010 = some (.inc .r2) := by decide
theorem test_decode_dec : decodeTableWord 8 0b11001111 = some (.dec .r3) := by decide
theorem test_decode_srl : decodeTableWord 8 0b11010001 = some (.srl .r1) := by decide
theorem test_decode_sra : decodeTableWord 8 0b11010110 = some (.sra .r2) := by decide
theorem test_decode_rrc : decodeTableWord 8 0b11011011 = some (.rrc .r3) := by decide
theorem test_decode_cplReg : decodeTableWord 8 0b11011100 = some (.cplReg .r0) := by decide
theorem test_decode_clr : decodeTableWord 8 0b11100010 = some (.clr .z) := by decide
theorem test_decode_setb : decodeTableWord 8 0b11100111 = some (.setb .s) := by decide
theorem test_decode_cplFlag : decodeTableWord 8 0b11101000 = some (.cplFlag .c) := by decide
theorem test_decode_wait : decodeTableWord 8 0b11110011 = some (.wait .t3) := by decide
theorem test_decode_reserved1000 : decodeTableWord 8 0b10001000 = some (.reserved1000 0x8) := by decide
theorem test_decode_reserved100110 : decodeTableWord 8 0b10011010 = some (.reserved100110 2) := by decide
theorem test_decode_reserved101001 : decodeTableWord 8 0b10100101 = some (.reserved101001 1) := by decide
theorem test_decode_reserved101101 : decodeTableWord 8 0b10110111 = some (.reserved101101 3) := by decide
theorem test_decode_reserved10111001 : decodeTableWord 8 0b10111001 = some (.reserved10111001) := by decide
theorem test_decode_reserved1011101 : decodeTableWord 8 0b10111011 = some (.reserved1011101 1) := by decide
theorem test_decode_reserved101111 : decodeTableWord 8 0b10111110 = some (.reserved101111 2) := by decide
theorem test_decode_reserved111011 : decodeTableWord 8 0b11101111 = some (.reserved111011 3) := by decide
theorem test_decode_reserved111101 : decodeTableWord 8 0b11110101 = some (.reserved111101 1) := by decide
theorem test_decode_reserved11111 : decodeTableWord 8 0b11111110 = some (.reserved11111 6) := by decide

/-- A4h is reserved in a build without LJMP, as a one-byte code (R106 to R108). -/
theorem test_decode_a4_without_long :
    decode false [0b10100100, 0xCD] = .ok (.reserved101001 0, [0xCD]) := rfl
theorem test_decode_missing_operand : decode true [0b10100100, 0xCD] = .error .missingOperand := rfl
theorem test_decode_no_bytes : decode true [] = .error .noBytes := rfl
theorem test_encode_jmp : encode (.jmp 0x234) = [0b10100010, 0b00110100] := by decide
theorem test_encode_lcall : encode (.lcall 0x8001) = [0b10110100, 0b00000001, 0b10000000] := by decide

/-! ## One step of each instruction -/

/-- M1. -/
theorem test_nop :
    look (fun t => (t.r0, t.psw, t.pc)) { base [0x00] with r0 := 1, psw := 0x0F } = some (1, 0x0F, 1) := by decide
/-- M2. -/
theorem test_movRegReg :
    look (fun t => (t.r2, t.r3, t.pc)) { base [0x0B] with r2 := 3, r3 := 4 } = some (3, 3, 1) := by decide
/-- M5. -/
theorem test_movRegInd_ram_at_e5 :
    look (fun t => (t.r3, t.trace)) { base [0x13] with r0 := 0xE5, ram := image 0xE5 [0x66] } = some (0x66, []) := by decide
/-- M6. -/
theorem test_movRegInd_same_register :
    look (fun t => (t.r1, t.psw)) { base [0x15] with r1 := 0xFF, psw := 0x0A, ram := image 0xFF [0x12] } = some (0x12, 0x0A) := by decide
/-- R123. -/
theorem test_movRegImm :
    look (fun t => (t.r3, t.pc)) (base [0x1B, 0x80]) = some (0x80, 2) := by decide
/-- M10. -/
theorem test_movRegDir_port :
    look (fun t => (t.r0, t.trace)) { base [0x1C, 0xE0] with ram := image 0xE0 [0x55], ioAnswers := [0x9A] } = some (0x9A, [.read 0 0x9A]) := by decide
/-- M15. -/
theorem test_movRegDir_psw :
    look (fun t => t.r2) { base [0x1E, 0xFF] with psw := 0x3C } = some 0x3C := by decide
/-- M18. -/
theorem test_movIndReg_at_fe :
    look (fun t => (t.ram, t.sp)) { base [0x94] with r0 := 0x77, r1 := 0xFE, sp := 0x20 } = some ([(0xFE, 0x77)], 0x20) := by decide
/-- R125. -/
theorem test_movIndReg_same_register :
    look (fun t => t.ram) { base [0x90] with r0 := 0x44 } = some [(0x44, 0x44)] := by decide
/-- M23. -/
theorem test_movDirReg_port :
    look (fun t => (t.ram, t.trace)) { base [0x9F, 0xEF] with r3 := 0xFE } = some ([], [.write 15 0xFE]) := by decide
/-- M26. -/
theorem test_movDirReg_psw :
    look (fun t => t.psw) { base [0x9D, 0xFF] with r1 := 0xF3, psw := 0x0C } = some 0xF3 := by decide
/-- A1. -/
theorem test_anlRegReg :
    look (fun t => (t.r1, t.psw)) { base [0x21] with r0 := 0x0F, r1 := 0x3C, psw := 0x03 } = some (0x0C, 0x03) := by decide
/-- A3. -/
theorem test_anlRegInd :
    look (fun t => (t.r0, t.psw)) { base [0x34] with r0 := 0x5A, r1 := 0x20, ram := image 0x20 [0xF0] } = some (0x50, 0x00) := by decide
/-- A4. -/
theorem test_anlRegImm :
    look (fun t => (t.r3, t.psw)) { base [0x3B, 0x01] with r3 := 0xFE, psw := 0x01 } = some (0x00, 0x05) := by decide
/-- A6. -/
theorem test_anlRegDir_psw :
    look (fun t => (t.r1, t.psw)) { base [0x3D, 0xFF] with r1 := 0x05, psw := 0x0D } = some (0x05, 0x01) := by decide
/-- A7. -/
theorem test_addRegReg_doubling :
    look (fun t => (t.r0, t.psw)) { base [0x40] with r0 := 0x81 } = some (0x02, 0x03) := by decide
/-- A8. -/
theorem test_addRegReg_overflow :
    look (fun t => (t.r3, t.psw)) { base [0x47] with r1 := 0x70, r3 := 0x70 } = some (0xE0, 0x0A) := by decide
/-- A10. -/
theorem test_addRegInd_same_register :
    look (fun t => (t.r0, t.psw)) { base [0x50] with r0 := 0x10, ram := image 0x10 [0xF0] } = some (0x00, 0x05) := by decide
/-- A11. -/
theorem test_addRegImm :
    look (fun t => (t.r1, t.psw)) { base [0x59, 0x80] with r1 := 0x80 } = some (0x00, 0x07) := by decide
/-- A13. -/
theorem test_addRegDir_sp :
    look (fun t => (t.r0, t.psw)) { base [0x5C, 0xFE] with r0 := 0x10, sp := 0x7F } = some (0x8F, 0x0A) := by decide
/-- A14. -/
theorem test_addRegDir_port :
    look (fun t => (t.r0, t.psw, t.trace)) { base [0x5C, 0xE6] with r0 := 0x9C, ioAnswers := [0x64] } = some (0x00, 0x05, [.read 6 0x64]) := by decide
/-- A16. -/
theorem test_subRegReg_borrow :
    look (fun t => (t.r0, t.psw)) { base [0x6C] with r0 := 0x10, r3 := 0x20 } = some (0xF0, 0x09) := by decide
/-- A17. -/
theorem test_subRegInd_overflow :
    look (fun t => (t.r2, t.psw)) { base [0x76] with r1 := 0x08, r2 := 0x80, ram := image 0x08 [0x01] } = some (0x7F, 0x02) := by decide
/-- A18. -/
theorem test_subRegImm :
    look (fun t => (t.r3, t.psw)) { base [0x7B, 0xFF] with r3 := 0x7F } = some (0x80, 0x0B) := by decide
/-- A21. -/
theorem test_subRegDir_psw :
    look (fun t => (t.r0, t.psw)) { base [0x7C, 0xFF] with r0 := 0x10, psw := 0x0F } = some (0x01, 0x00) := by decide
/-- J3. -/
theorem test_jmp :
    look (fun t => t.pc) { base [] with pc := 0x010, prog := image 0x010 [0xA2, 0x34] } = some 0x234 := by decide
/-- J6. -/
theorem test_jmp_next_page :
    look (fun t => t.pc) (stretched 0x13FE [0xA0, 0x01]) = some 0x1401 := by decide
/-- J8. -/
theorem test_ljmp :
    look (fun t => t.pc) (stretched 0x0010 [0xA4, 0xCD, 0xAB]) = some 0xABCD := by decide
/-- J9. -/
theorem test_ljmp_absent : fault? (step (base [0xA4, 0xCD, 0xAB])) = some (.reservedOpcode 0xA4) := by decide
/-- J27. -/
theorem test_jf_next_page :
    look (fun t => t.pc) { base [] with pc := 0x0FE, prog := image 0x0FE [0xA8, 0x10] } = some 0x110 := by decide
/-- J16. -/
theorem test_jf_not_taken :
    look (fun t => t.pc) { base [0xAA, 0x40] with psw := 0x04 } = some 0x002 := by decide
/-- J21. -/
theorem test_jt_taken :
    look (fun t => t.pc) { base [] with pc := 0x210, prog := image 0x210 [0xAD, 0x40], psw := 0x02 } = some 0x240 := by decide
/-- J33. -/
theorem test_jt_not_taken :
    look (fun t => t.pc) { base [0xAC, 0x99] with psw := 0xF0 } = some 0x002 := by decide
/-- J37. -/
theorem test_call_wraps_sp :
    look (fun t => (t.pc, t.sp, t.ram)) { base [] with pc := 0x2AB, prog := image 0x2AB [0xB0, 0x40], sp := 0xFE } = some (0x040, 0x00, [(0x00, 0x02), (0xFF, 0xAD)]) := by decide
/-- J40. -/
theorem test_call_16 :
    look (fun t => (t.pc, t.ram)) { stretched 0x47FE [0xB1, 0x55] with sp := 0x30 } = some (0x4955, [(0x32, 0x48)]) := by decide
/-- J42. -/
theorem test_lcall :
    look (fun t => (t.pc, t.sp, t.ram)) { stretched 0x12FD [0xB4, 0x01, 0x80] with sp := 0x30 } = some (0x8001, 0x32, [(0x32, 0x13)]) := by decide
/-- J43. -/
theorem test_lcall_absent : fault? (step { base [0xB4, 0x01, 0x80] with sp := 0x30 }) = some (.reservedOpcode 0xB4) := by decide
/-- J45. -/
theorem test_ret_drops_bits :
    look (fun t => (t.pc, t.sp)) { base [0xB8] with sp := 0x81, ram := image 0x80 [0x55, 0xFE] } = some (0x255, 0x7F) := by decide
/-- J46. -/
theorem test_ret_16 :
    look (fun t => (t.pc, t.sp)) { stretched 0x0300 [0xB8] with sp := 0x81, ram := image 0x80 [0x55, 0xFE] } = some (0xFE55, 0x7F) := by decide
/-- K2. -/
theorem test_push_wraps_sp :
    look (fun t => (t.sp, t.ram)) { base [0xC0] with r0 := 0x5C, sp := 0xFF } = some (0x00, [(0x00, 0x5C)]) := by decide
/-- K3. -/
theorem test_push_ram_at_e5 :
    look (fun t => (t.sp, t.ram, t.trace)) { base [0xC3] with r3 := 0x99, sp := 0xE4 } = some (0xE5, [(0xE5, 0x99)], []) := by decide
/-- K6. -/
theorem test_pop_wraps_sp :
    look (fun t => (t.r0, t.sp)) { base [0xC4] with ram := image 0x00 [0x5C] } = some (0x5C, 0xFF) := by decide
/-- K7. -/
theorem test_pop_ram_at_ff :
    look (fun t => (t.r3, t.sp, t.psw)) { base [0xC7] with sp := 0xFF, psw := 0x0A, ram := image 0xFF [0x44] } = some (0x44, 0xFE, 0x0A) := by decide
/-- U2. -/
theorem test_inc_wraps :
    look (fun t => (t.r0, t.psw)) { base [0xC8] with r0 := 0xFF, psw := 0x0B } = some (0x00, 0x0F) := by decide
/-- U5. -/
theorem test_dec_wraps :
    look (fun t => (t.r1, t.psw)) { base [0xCD] with psw := 0x0F } = some (0xFF, 0x0B) := by decide
/-- U8. -/
theorem test_srl_keeps_z :
    look (fun t => (t.r0, t.psw)) { base [0xD0] with r0 := 0x01 } = some (0x00, 0x01) := by decide
/-- U15. -/
theorem test_sra_keeps_sign :
    look (fun t => (t.r3, t.psw)) { base [0xD7] with r3 := 0x80, psw := 0x01 } = some (0xC0, 0x00) := by decide
/-- U19. -/
theorem test_rrc :
    look (fun t => (t.r3, t.psw)) { base [0xDB] with r3 := 0x81, psw := 0x01 } = some (0xC0, 0x01) := by decide
/-- U20. -/
theorem test_rrc_keeps_flags :
    look (fun t => (t.r0, t.psw)) { base [0xD8] with r0 := 0xFE, psw := 0x0E } = some (0x7F, 0x0E) := by decide
/-- U22. -/
theorem test_cplReg :
    look (fun t => (t.r1, t.psw)) { base [0xDD] with r1 := 0xFF, psw := 0x0B } = some (0x00, 0x0B) := by decide
/-- F4. -/
theorem test_clr :
    look (fun t => t.psw) { base [0xE3] with psw := 0xFF } = some 0xF7 := by decide
/-- F7. -/
theorem test_setb :
    look (fun t => t.psw) (base [0xE6]) = some 0x04 := by decide
/-- F10. -/
theorem test_cplFlag :
    look (fun t => t.psw) { base [0xE9] with psw := 0x05 } = some 0x07 := by decide
/-- W2. -/
theorem test_wait_passes :
    look (fun t => (t.pc, t.waiting)) { base [] with pc := 0x010, prog := image 0x010 [0xF1], testAnswers := [true] } = some (0x011, none) := by decide
/-- W6. -/
theorem test_wait_holds :
    look (fun t => (t.pc, t.waiting)) { base [] with pc := 0x010, prog := image 0x010 [0xF1], testAnswers := [false] } = some (0x011, some .t1) := by decide
/-- X3. -/
theorem test_reserved1000 : fault? (step (base [0x88])) = some (.reservedOpcode 0x88) := by decide
/-- X4. -/
theorem test_reserved100110 : fault? (step (base [0x98])) = some (.reservedOpcode 0x98) := by decide
/-- X7. -/
theorem test_reserved101001 : fault? (step (base [0xA7])) = some (.reservedOpcode 0xA7) := by decide
/-- X8. -/
theorem test_reserved101101 : fault? (step (base [0xB5])) = some (.reservedOpcode 0xB5) := by decide
/-- X10. -/
theorem test_reserved10111001 : fault? (step (base [0xB9])) = some (.reservedOpcode 0xB9) := by decide
/-- X11. -/
theorem test_reserved1011101 : fault? (step (base [0xBA])) = some (.reservedOpcode 0xBA) := by decide
/-- X14. -/
theorem test_reserved101111 : fault? (step (base [0xBF])) = some (.reservedOpcode 0xBF) := by decide
/-- X15. -/
theorem test_reserved111011 : fault? (step (base [0xEC])) = some (.reservedOpcode 0xEC) := by decide
/-- X17. -/
theorem test_reserved111101 : fault? (step (base [0xF4])) = some (.reservedOpcode 0xF4) := by decide
/-- X20. -/
theorem test_reserved11111 : fault? (step (base [0xFF])) = some (.reservedOpcode 0xFF) := by decide

/-! ## Fetching, the bus and the assembler -/

/-- 95_test_vectors.md, after X23: a two-byte instruction at 0FFh with `PROG_SIZE` = 100h. -/
theorem test_fetch_outside_second_byte : fault? (step { base [] with build := { Build.base with progSize := 0x100 }, pc := 0x0FF, prog := image 0x0FF [0x18] }) = some (.fetchOutsideProgram 0x100) := by decide
/-- 95_test_vectors.md, after X23: `RAM_SIZE` = 0E0h. -/
theorem test_push_outside_ram : fault? (step { base [0xC0] with build := { Build.base with ramSize := 0xE0 }, sp := 0xDF }) = some (.outsideRam 0xE0) := by decide
/-- S8: the pins during `MOV R0,0EAh` and `MOV 0E5h,R0`. -/
theorem test_bus_cycles :
    (IoEvent.read 10 0x81).cycle = ⟨0b01, some 0b1010, none, some 0x81⟩ ∧
    (IoEvent.write 5 0x3C).cycle = ⟨0b10, some 0b0101, some 0x3C, none⟩ := by decide
/-- S10: the bytes of `#-1`, `#255` and `#-128`; 256 is refused. -/
theorem test_asm_immediates :
    asmImm (-1) = some 0xFF ∧ asmImm 255 = some 0xFF ∧ asmImm (-128) = some 0x80 ∧
    asmImm 256 = none := by decide
/-- J27: the target of a conditional jump at 0FEh lies in the page of 100h. -/
theorem test_asm_page :
    asmAdr8 .bits10 0x0FE 0x110 = some 0x10 ∧ asmAdr8 .bits10 0x0FE 0x010 = none := by decide
theorem test_text_direct_name : (Instr.movDirReg 0xFE .r0).text .bits10 2 = "MOV SP,R0" := rfl
theorem test_text_number : (Instr.movRegImm .r2 0xFF).text .bits10 2 = "MOV R2,#0FFh" := rfl

/-! ## Witnesses: the hypotheses of each statement can be met -/

theorem test_witness_DecodeOfEncode :
    (Instr.jmp 0x3FF).wf false = true ∧ (Instr.lcall 0xFFFF).wf true = true := by decide
theorem test_witness_EncodeOfDecode :
    decode false [0x9D, 0xE5, 0x00] = .ok (.movDirReg 0xE5 .r1, [0x00]) := rfl

/-- The last byte of the instruction is the last byte of program memory. -/
theorem test_witness_StepRunsDecodedInstruction :
    let s := { base [0x1B, 0x80] with build := { Build.base with progSize := 2 } }
    s.waiting = none ∧ decode s.build.hasLong s.codeBytes = .ok (.movRegImm .r3 0x80, [0x00]) ∧
    ∀ k, k < (encode (.movRegImm .r3 0x80)).length → (s.pcAt k).toNat < s.build.progSize :=
  ⟨rfl, rfl, by decide⟩
theorem test_witness_StepRunsDecodedInstruction_three_bytes :
    let s := stretched 0xFFFD [0xA4, 0xCD, 0xAB]
    s.waiting = none ∧ decode s.build.hasLong s.codeBytes = .ok (.ljmp 0xABCD, []) ∧
    ∀ k, k < (encode (.ljmp 0xABCD)).length → (s.pcAt k).toNat < s.build.progSize :=
  ⟨rfl, rfl, by decide⟩
theorem test_witness_HeldStepSamplesAgain :
    ({ base [] with waiting := some .t2 } : State).waiting = some .t2 := rfl
theorem test_witness_HeldUntilInputIsOne :
    let s := { base [] with waiting := some .t2, testAnswers := [false, false, true, false] }
    s.waiting = some .t2 ∧ s.testAnswers = List.replicate 2 false ++ true :: [false] := by decide
theorem test_witness_HeldUntilInputIsOne_at_once :
    let s := { base [] with waiting := some .t2, testAnswers := [true] }
    s.waiting = some .t2 ∧ s.testAnswers = List.replicate 0 false ++ true :: [] := by decide

/-- A build with a program memory of 100h bytes. -/
def small (a : ProgAddr) (bytes : List Byte) : State :=
  { stretched a bytes with build := { Build.stretched with progSize := 0x100 } }

theorem test_witness_FetchOutsideProgramStops_first :
    (small 0x100 []).waiting = none ∧
    (small 0x100 []).build.progSize ≤ (small 0x100 []).pc.toNat := by decide
theorem test_witness_FetchOutsideProgramStops_second :
    let s := small 0x0FF [0x18]
    s.waiting = none ∧ s.pc.toNat < s.build.progSize ∧ s.build.progSize ≤ (s.pcAt 1).toNat ∧
    2 ≤ instrLength s.build.hasLong (s.prog.read s.pc.toNat) := by decide
theorem test_witness_FetchOutsideProgramStops_third :
    let s := small 0x0FE [0xA4, 0xCD]
    s.waiting = none ∧ s.pc.toNat < s.build.progSize ∧ (s.pcAt 1).toNat < s.build.progSize ∧
    s.build.progSize ≤ (s.pcAt 2).toNat ∧
    instrLength s.build.hasLong (s.prog.read s.pc.toNat) = 3 := by decide
theorem test_witness_ReservedFirstByteStops :
    let s := small 0x0FF [0xEC]
    s.waiting = none ∧ s.pc.toNat < s.build.progSize ∧
    reservedByte s.build.hasLong (s.prog.read s.pc.toNat) = true := by decide
theorem test_witness_ReservedFirstByteStops_without_long :
    let s := base [0xB4]
    s.waiting = none ∧ s.pc.toNat < s.build.progSize ∧
    reservedByte s.build.hasLong (s.prog.read s.pc.toNat) = true := by decide
/-- Each of the four faults is the outcome of a step. -/
theorem test_witness_FaultsHaveTheirCauses :
    fault? (step (small 0x100 [])) = some (.fetchOutsideProgram 0x100) ∧
    fault? (step (base [0x80])) = some (.reservedOpcode 0x80) ∧
    fault? (step (base [0x1D, 0xF4])) = some (.reservedDirect 0xF4) ∧
    fault? (step { base [0x1C, 0x80] with build := { Build.base with ramSize := 0x80 } }) =
      some (.outsideRam 0x80) := by decide
/-- A stack byte that is not built: the second access of a CALL is the one that stops. -/
theorem test_witness_FaultsHaveTheirCauses_second_push :
    let s := { base [0xB0, 0x40] with build := { Build.base with ramSize := 0xFF }, sp := 0xFD }
    fault? (step s) = some (.outsideRam 0xFF) ∧
    (ramAccesses s (.call 0x040)).find? (fun c => decide (s.build.ramSize ≤ c.toNat)) =
      some 0xFF := by decide
theorem test_witness_FullSizeBuildFaults :
    (base [0x1D, 0xFD]).PcFits ∧ (base [0x1D, 0xFD]).FullSize ∧
    fault? (step (base [0x1D, 0xFD])) = some (.reservedDirect 0xFD) := by decide
/-- A step that answers, for `StepKeepsProgramAndBuild` and `StepMakesAtMostOneAction`. -/
theorem test_witness_StepKeepsProgramAndBuild :
    (next? (step (base [0x9C, 0xE5]))).isSome = true := by decide
theorem test_witness_StepMakesAtMostOneAction :
    look (fun t => t.trace) { base [0x1C, 0xEA] with ioAnswers := [0x81] } =
      some [.read 10 0x81] := by decide
/-- States other than reset that have the invariant, one in each build; their steps write RAM. -/
theorem test_witness_StepKeepsInvariant :
    let s := { base [0xC0] with r0 := 1, sp := 0xFF, ram := [(0xFF, 7)] }
    s.Inv ∧ look (fun t => t.ram) s = some [(0x00, 1), (0xFF, 7)] := by decide
theorem test_witness_StepKeepsInvariant_16 :
    let s := { stretched 0xFFFD [0xB4, 0x01, 0x80] with sp := 0xFD }
    s.Inv ∧ look (fun t => (t.pc, t.sp)) s = some (0x8001, 0xFF) := by decide
theorem test_witness_SelfJumpIsFinished :
    let s := { base [] with pc := 0x3FE, prog := image 0x3FE [0xA3, 0xFE] }
    s.PcFits ∧ s.waiting = none ∧ s.pc.toNat < s.build.progSize ∧
    (s.pcAt 1).toNat < s.build.progSize ∧
    [s.prog.read s.pc.toNat, s.prog.read (s.pcAt 1).toNat] =
      encode (.jmp (s.pc.extractLsb' 0 10)) ∧
    (s.build.pcWidth = .bits16 → (s.pcAt 2).extractLsb' 10 6 = s.pc.extractLsb' 10 6) := by decide
theorem test_witness_SelfJumpIsFinished_16 :
    let s := stretched 0xAC80 [0xA0, 0x80]
    s.PcFits ∧ s.waiting = none ∧ s.pc.toNat < s.build.progSize ∧
    (s.pcAt 1).toNat < s.build.progSize ∧
    [s.prog.read s.pc.toNat, s.prog.read (s.pcAt 1).toNat] =
      encode (.jmp (s.pc.extractLsb' 0 10)) ∧
    (s.build.pcWidth = .bits16 → (s.pcAt 2).extractLsb' 10 6 = s.pc.extractLsb' 10 6) := by decide
theorem test_witness_FetchWordRunsNext :
    State.reset.prog.wf ∧ decodeTableWord 24 0xABCDA4 = some (.ljmp 0xABCD) := by decide

/-! Operands: every form, the direct addresses at the ends of their ranges -/

/-- A state with something to read everywhere. -/
def full : State :=
  { base [] with
    r0 := 0xFF, r1 := 0x5A, sp := 0x42, psw := 0x3C, ram := [(0xDF, 0x32), (0xFF, 0x12)]
    ioAnswers := [0x9A] }

/-- For `MovCopiesOperand`, `AnlAndsIntoRegister`, `AddSumsIntoRegister`, `SubSubtractsFromRegister`. -/
theorem test_witness_Delivers_reg : (Operand.reg .r1).Delivers full 0x5A := rfl
theorem test_witness_Delivers_imm : (Operand.imm 0x80).Delivers full 0x80 := rfl
theorem test_witness_Delivers_ind_last : (Operand.ind .r0).Delivers full 0x12 := by
  constructor <;> decide
theorem test_witness_Delivers_dir_first : (Operand.dir 0x00).Delivers full 0x00 :=
  .inl (by decide)
theorem test_witness_Delivers_dir_last_ram : (Operand.dir 0xDF).Delivers full 0x32 :=
  .inl (by decide)
theorem test_witness_Delivers_dir_first_port : (Operand.dir 0xE0).Delivers full 0x9A :=
  .inr (.inl (by decide))
theorem test_witness_Delivers_dir_last_port : (Operand.dir 0xEF).Delivers full 0x9A :=
  .inr (.inl (by decide))
theorem test_witness_Delivers_dir_sp : (Operand.dir 0xFE).Delivers full 0x42 :=
  .inr (.inr (.inl (by decide)))
theorem test_witness_Delivers_dir_psw : (Operand.dir 0xFF).Delivers full 0x3C :=
  .inr (.inr (.inr (by decide)))
theorem test_witness_SubComparesOperands :
    (Operand.reg .r1).Delivers full 0x5A ∧
    ((next? (exec (subOf .r0 (.reg .r1)) full)).map fun t => t.psw) = some 0x38 :=
  ⟨rfl, by decide⟩

/-! Stores -/

theorem test_witness_MovIndirectStores :
    full.ram.wf ∧ (full.pointer .r0).toNat < full.build.ramSize := by decide
theorem test_witness_MovDirectWrites_ram :
    (0xDF#8).toNat ≤ 0xDF ∧ (0xDF#8).toNat < full.build.ramSize ∧ full.ram.wf := by decide
theorem test_witness_MovDirectWrites_first_port :
    0xE0 ≤ (0xE0#8).toNat ∧ (0xE0#8).toNat ≤ 0xEF := by decide
theorem test_witness_MovDirectWrites_last_port :
    0xE0 ≤ (0xEF#8).toNat ∧ (0xEF#8).toNat ≤ 0xEF := by decide
theorem test_witness_MovDirectWrites_sp_psw :
    (0xFE#8).toNat = 0xFE ∧ (0xFF#8).toNat = 0xFF := by decide
/-- Another port action, and a held processor. -/
theorem test_witness_OutputPortShowsLastWrite :
    (∀ rs, Instr.movDirReg 0xE4 .r1 ≠ .movDirReg 0xE5 rs) ∧
    ((next? (exec (.movDirReg 0xE4 .r1) { full with trace := [.write 5 0x3C] })).map
      fun t => t.trace) = some [.write 5 0x3C, .write 4 0x5A] ∧
    (next? (step { full with waiting := some .t0, testAnswers := [true] })).isSome = true := by
  refine ⟨fun rs h => (by cases h), by decide, by decide⟩
theorem test_witness_ReservedDirectStops :
    (0xF0 ≤ (0xF0#8).toNat ∧ (0xF0#8).toNat ≤ 0xFD) ∧
    0xF0 ≤ (0xFD#8).toNat ∧ (0xFD#8).toNat ≤ 0xFD := by decide
/-- The clauses at the first address that is not built. -/
theorem test_witness_OutsideRamStops :
    let s := { full with build := { Build.base with ramSize := 0xDF }, r0 := 0xDF, sp := 0xDE }
    let u := { s with sp := 0xDF }
    (s.build.ramSize ≤ (0xDF#8).toNat ∧ (0xDF#8).toNat ≤ 0xDF) ∧
    s.build.ramSize ≤ (s.pointer .r0).toNat ∧ s.build.ramSize ≤ (s.sp + 1).toNat ∧
    u.build.ramSize ≤ u.sp.toNat := by decide
/-- The second push and the second pop, in a build with LCALL. -/
theorem test_witness_OutsideRamStops_second_byte :
    let s := { full with build := { Build.stretched with ramSize := 0xFF }, sp := 0xFD }
    let u := { s with sp := 0x00 }
    s.build.hasLong = true ∧ (s.sp + 1).toNat < s.build.ramSize ∧
    s.build.ramSize ≤ (s.sp + 2).toNat ∧ u.sp.toNat < u.build.ramSize ∧
    u.build.ramSize ≤ (u.sp - 1).toNat := by decide

/-! Control transfer and the stack -/

theorem test_witness_JmpLoadsTenBits :
    (base []).build.pcWidth = .bits10 ∧ (stretched 0 []).build.pcWidth = .bits16 := by decide
/-- Also for `LcallPushesReturnAddress`: a build with and a build without the long jumps. -/
theorem test_witness_LjmpLoadsSixteenBits :
    ((stretched 0 []).build.wf ∧ (stretched 0 []).build.hasLong = true) ∧
    (base []).build.wf ∧ (base []).build.hasLong = false := by decide
theorem test_witness_ConditionalJumpsTestOneFlag :
    ({ base [] with pc := 0x3FF } : State).PcFits ∧ (stretched 0xFFFF []).PcFits := by decide
theorem test_witness_CallPushesReturnAddress :
    let s := { base [] with pc := 0x3FF, sp := 0xFD }
    s.ram.wf ∧ s.PcFits ∧ (s.sp + 1).toNat < s.build.ramSize ∧
    (s.sp + 2).toNat < s.build.ramSize ∧ s.build.pcWidth = .bits10 := by decide
theorem test_witness_CallPushesReturnAddress_wrap_16 :
    let s := { stretched 0xFFFF [] with sp := 0xFE }
    s.ram.wf ∧ s.PcFits ∧ (s.sp + 1).toNat < s.build.ramSize ∧
    (s.sp + 2).toNat < s.build.ramSize ∧ s.build.pcWidth = .bits16 := by decide
theorem test_witness_LcallPushesReturnAddress :
    let s := { stretched 0xFFFF [] with sp := 0xFD }
    s.build.wf ∧ s.ram.wf ∧ s.build.hasLong = true ∧ (s.sp + 1).toNat < s.build.ramSize ∧
    (s.sp + 2).toNat < s.build.ramSize := by decide
theorem test_witness_RetLoadsPcFromStack :
    let s := { base [] with sp := 0x00 }
    s.sp.toNat < s.build.ramSize ∧ (s.sp - 1).toNat < s.build.ramSize := by decide
theorem test_witness_RetUndoesCall :
    full.ram.wf ∧ full.PcFits ∧ (next? (exec (.call 0x300) full)).isSome = true ∧
    (next? (exec (.lcall 0x300) (stretched 0x12FD []))).isSome = true := by decide
theorem test_witness_PushStoresRegister :
    let s := { full with sp := 0xFE }
    s.ram.wf ∧ (s.sp + 1).toNat < s.build.ramSize := by decide
theorem test_witness_PopLoadsRegister :
    let s := { full with sp := 0xFF }
    s.sp.toNat < s.build.ramSize := by decide
theorem test_witness_PopUndoesPush :
    full.ram.wf ∧ (next? (exec (.push .r1) full)).isSome = true := by decide
theorem test_witness_ReservedRowsStop : isReserved (.reserved11111 7) = true := by decide

/-! Rules over all instructions -/

theorem test_witness_PswReservedBitsAreInert :
    (∀ rs, Instr.addRegImm .r0 1 ≠ .movDirReg 0xFF rs) ∧
    (next? (exec (.addRegImm .r0 1) full)).isSome = true ∧
    directSource (.addRegImm .r0 1) ≠ some 0xFF := by
  refine ⟨fun rs h => (by cases h), by decide, by decide⟩
theorem test_witness_OnlyListedFlagsChange :
    (next? (exec (.inc .r0) full)).isSome = true ∧ FlagName.c ∉ flagsWritten (.inc .r0) := by decide
theorem test_witness_OnlyDestinationRegisterChanges :
    (next? (exec (.pop .r3) full)).isSome = true := by decide
theorem test_witness_OnlyControlTransfersChangePc :
    (next? (exec (.wait .t0) { full with testAnswers := [true] })).isSome = true ∧
    writesPc (.wait .t0) = false := by decide
theorem test_witness_StackPointerAfterInstruction :
    ((next? (exec (.movDirReg 0xFE .r1) full)).map fun t => t.sp) = some 0x5A := by decide
theorem test_witness_OnlyStoredBytesChange :
    full.ram.wf ∧ (next? (exec (.movIndReg .r0 .r1) full)).isSome = true := by decide
theorem test_witness_ActionsOfEachInstruction :
    ((next? (exec (.movRegDir .r2 0xEF) full)).map fun t => t.trace) =
      some [.read 15 0x9A] := by decide
theorem test_witness_OnlyWaitReadsTestInputs :
    (∀ p, Instr.inc .r0 ≠ .wait p) ∧ (next? (exec (.inc .r0) full)).isSome = true := by
  refine ⟨fun p h => (by cases h), by decide⟩
theorem test_witness_AssembledOperandsReachTarget_adr8 :
    let s := { base [] with pc := 0x100 }
    asmAdr8 s.build.pcWidth 0x0FE 0x1FF = some 0xFF ∧
    (0x1FF : ProgAddr).toNat < 2 ^ s.build.pcWidth.bits ∧
    s.pc = cutPc s.build.pcWidth (0x0FE + 2) ∧ s.flag .c = false ∧
    ({ s with psw := 1 } : State).flag .c = true := by decide
theorem test_witness_AssembledOperandsReachTarget_adr10 :
    let s := stretched 0x1400 []
    asmAdr10 s.build.pcWidth 0x13FE 0x17FF = some 0x3FF ∧
    (0x17FF : ProgAddr).toNat < 2 ^ s.build.pcWidth.bits ∧
    s.pc = cutPc s.build.pcWidth (0x13FE + 2) ∧
    (s.sp + 1).toNat < s.build.ramSize ∧ (s.sp + 2).toNat < s.build.ramSize := by decide
theorem test_witness_AssembledOperandsReachTarget_last_10_bit_target :
    (0x3FF : ProgAddr).toNat < 1024 := by decide
theorem test_witness_CanonicalMemoriesAreEqual :
    let m : Memory := [(0x01, 0x02), (0xFF, 0x03)]
    let m' : Memory := Memory.write (Memory.write [] 0xFF 0x03) 0x01 0x02
    m.wf ∧ m'.wf ∧ ∀ a, m.read a = m'.read a := by
  refine ⟨by decide, by decide, fun a => rfl⟩

end Sys2Proof.Tests
end

namespace Sys2Proof.Machine

/-! ## What keeps the invariant -/

/-- A cut address has no bit above `PCW` (10_state.md R23). -/
theorem cutPc_lt (w : PcWidth) (a : ProgAddr) : (cutPc w a).toNat < 2 ^ w.bits := by
  cases w with
  | bits10 =>
    simp only [cutPc, PcWidth.bits, BitVec.toNat_setWidth]
    omega
  | bits16 => exact a.isLt

section
variable {s t : State}

/-- The invariant looks at the build, the program memory, the PC and the RAM alone. -/
theorem State.Inv.congr (hs : s.Inv) (hbuild : t.build = s.build) (hprog : t.prog = s.prog)
    (hpc : t.pc = s.pc) (hram : t.ram = s.ram) : t.Inv := by
  unfold State.Inv State.PcFits
  rw [hbuild, hprog, hpc, hram]
  exact hs

/-- Every write to the PC is cut, so the new value does not matter (10_state.md R23, log 6). -/
theorem State.Inv.cutPc (hs : s.Inv) (a : ProgAddr) :
    State.Inv { s with pc := Machine.cutPc s.build.pcWidth a } := by
  obtain ⟨hbuild, -, hmem⟩ := hs
  exact ⟨hbuild, cutPc_lt _ a, hmem⟩

theorem State.Inv.setPc (hs : s.Inv) (a : ProgAddr) : (s.setPc a).Inv := hs.cutPc a
theorem State.Inv.jumpPage8 (hs : s.Inv) (a : Byte) : (s.jumpPage8 a).Inv := hs.cutPc _
theorem State.Inv.jumpPage10 (hs : s.Inv) (a : BitVec 10) : (s.jumpPage10 a).Inv := hs.cutPc _

theorem State.Inv.setReg (hs : s.Inv) (r : Reg) (v : Byte) : (s.setReg r v).Inv :=
  hs.congr (by simp) (by simp) (by simp) (by simp)

theorem State.Inv.setFlag (hs : s.Inv) (f : FlagName) (b : Bool) : (s.setFlag f b).Inv := hs
theorem State.Inv.setSp (hs : s.Inv) (v : Byte) : (s.setSp v).Inv := hs
theorem State.Inv.setPsw (hs : s.Inv) (v : Byte) : (s.setPsw v).Inv := hs
theorem State.Inv.setZS (hs : s.Inv) (r : Byte) : (s.setZS r).Inv := hs
theorem State.Inv.setCVZS (hs : s.Inv) (o : AluOut) : (s.setCVZS o).Inv := hs
theorem State.Inv.ioRead (hs : s.Inv) (p : Port) : (s.ioRead p).2.Inv := hs
theorem State.Inv.ioWrite (hs : s.Inv) (p : Port) (v : Byte) : (s.ioWrite p v).Inv := hs
theorem State.Inv.sampleWait (hs : s.Inv) (p : TestPin) : (s.sampleWait p).Inv := hs

theorem State.Inv.putZ (hs : s.Inv) (r : Reg) (v : Byte) : (s.putZ r v).Inv := hs.setReg r v

theorem State.Inv.shiftRight (hs : s.Inv) (r : Reg) (top : Bool) : (s.shiftRight r top).Inv :=
  hs.setReg r _

/-- A byte stored where the build has RAM keeps the RAM canonical and in bounds (10_state.md R32). -/
theorem State.Inv.ramWrite (hs : s.Inv) {a : Byte} (v : Byte) (ha : a.toNat < s.build.ramSize) :
    State.Inv { s with ram := s.ram.write a.toNat v } := by
  obtain ⟨hbuild, hpc, hram, hbelow, hprog⟩ := hs
  exact ⟨hbuild, hpc, Memory.wf_write _ v hram, Memory.below_write v hbelow ha, hprog⟩

theorem State.Inv.memWrite (hs : s.Inv) {a v : Byte} (h : s.memWrite a v = .ok t) : t.Inv := by
  obtain ⟨ha, rfl⟩ := State.memWrite_eq_ok.1 h
  exact hs.ramWrite v ha

theorem State.Inv.dirWrite (hs : s.Inv) {a v : Byte} (h : s.dirWrite a v = .ok t) : t.Inv := by
  rcases State.dirWrite_ok h with ⟨-, ha, rfl⟩ | ⟨-, -, rfl⟩ | ⟨-, rfl⟩ | ⟨-, rfl⟩
  · exact hs.ramWrite v ha
  · exact hs.ioWrite _ v
  · exact hs.setSp v
  · exact hs.setPsw v

theorem State.Inv.pushByte (hs : s.Inv) {v : Byte} (h : s.pushByte v = .ok t) : t.Inv :=
  (hs.setSp (s.sp + 1)).memWrite h

theorem State.Inv.pushPc (hs : s.Inv) (h : s.pushPc = .ok t) : t.Inv := by
  obtain ⟨hlow, hhigh, rfl⟩ := State.pushPc_eq_ok.1 h
  exact ((hs.setSp (s.sp + 1 + 1)).ramWrite s.pcLow hlow).ramWrite s.pcHigh hhigh

theorem State.Inv.popByte (hs : s.Inv) {v : Byte} (h : s.popByte = .ok (v, t)) : t.Inv := by
  obtain ⟨-, -, rfl⟩ := State.popByte_eq_ok.1 h
  exact hs.setSp _

theorem State.Inv.source (hs : s.Inv) {o : Operand} {b : Byte} (h : o.source s = .ok (b, t)) :
    t.Inv := by
  rcases Operand.source_ok h with rfl | ⟨p, rfl⟩
  · exact hs
  · exact hs.ioRead p

/-! The three operations over a source: the register and the flags they write are outside the
invariant, so only the state after the read matters. -/

theorem inv_of_moveInto {rd : Reg} {src : Source} (hsrc : ∀ b s1, src s = .ok (b, s1) → s1.Inv)
    (h : moveInto rd src s = .ok t) : t.Inv := by
  obtain ⟨b, s1, h1, rfl⟩ := moveInto_eq_ok.1 h
  exact (hsrc b s1 h1).setReg rd b

theorem inv_of_anlInto {rd : Reg} {src : Source} (hsrc : ∀ b s1, src s = .ok (b, s1) → s1.Inv)
    (h : anlInto rd src s = .ok t) : t.Inv := by
  obtain ⟨b, s1, h1, rfl⟩ := anlInto_eq_ok.1 h
  exact ((hsrc b s1 h1).setReg rd _).setZS _

theorem inv_of_arithInto {law : Byte → Byte → AluOut} {rd : Reg} {src : Source}
    (hsrc : ∀ b s1, src s = .ok (b, s1) → s1.Inv) (h : arithInto law rd src s = .ok t) : t.Inv := by
  obtain ⟨b, s1, h1, rfl⟩ := arithInto_eq_ok.1 h
  exact ((hsrc b s1 h1).setReg rd _).setCVZS _

end

/-! ## What the instructions do, by their operand and by their outcome -/

theorem exec_movOf (rd : Reg) (o : Operand) (s : State) :
    exec (movOf rd o) s = finish (moveInto rd o.source s) := by cases o <;> rfl

theorem exec_anlOf (rd : Reg) (o : Operand) (s : State) :
    exec (anlOf rd o) s = finish (anlInto rd o.source s) := by cases o <;> rfl

theorem exec_addOf (rd : Reg) (o : Operand) (s : State) :
    exec (addOf rd o) s = finish (arithInto addLaw rd o.source s) := by cases o <;> rfl

theorem exec_subOf (rd : Reg) (o : Operand) (s : State) :
    exec (subOf rd o) s = finish (arithInto subLaw rd o.source s) := by cases o <;> rfl

theorem execLjmp_eq_next {a : BitVec 16} {s t : State} :
    execLjmp a s = .next t ↔ s.build.hasLong = true ∧ s.setPc a = t := by
  unfold execLjmp
  split <;> simp [*]

theorem execCall_eq_next {a : BitVec 10} {s t : State} :
    execCall a s = .next t ↔ ∃ s1, s.pushPc = .ok s1 ∧ s1.jumpPage10 a = t := by
  unfold execCall
  split <;> simp [*]

theorem execLcall_eq_next {a : BitVec 16} {s t : State} :
    execLcall a s = .next t ↔
      s.build.hasLong = true ∧ ∃ s1, s.pushPc = .ok s1 ∧ s1.setPc a = t := by
  unfold execLcall
  split
  · split <;> simp [*]
  · simp [*]

theorem execRet_eq_next {s t : State} :
    execRet s = .next t ↔ ∃ hi s1 lo s2, s.popByte = .ok (hi, s1) ∧ s1.popByte = .ok (lo, s2) ∧
      s2.setPc (hi ++ lo) = t := by
  unfold execRet
  split
  · split <;> simp [*]
  · simp [*]

/-! ## Every instruction keeps the invariant -/

section
variable {s t : State}

theorem State.Inv.exec_movOf (hs : s.Inv) (rd : Reg) (o : Operand)
    (h : exec (movOf rd o) s = .next t) : t.Inv :=
  inv_of_moveInto (fun _ _ => hs.source) (finish_eq_next.1 (Machine.exec_movOf rd o s ▸ h))

theorem State.Inv.exec_anlOf (hs : s.Inv) (rd : Reg) (o : Operand)
    (h : exec (anlOf rd o) s = .next t) : t.Inv :=
  inv_of_anlInto (fun _ _ => hs.source) (finish_eq_next.1 (Machine.exec_anlOf rd o s ▸ h))

theorem State.Inv.exec_addOf (hs : s.Inv) (rd : Reg) (o : Operand)
    (h : exec (addOf rd o) s = .next t) : t.Inv :=
  inv_of_arithInto (fun _ _ => hs.source) (finish_eq_next.1 (Machine.exec_addOf rd o s ▸ h))

theorem State.Inv.exec_subOf (hs : s.Inv) (rd : Reg) (o : Operand)
    (h : exec (subOf rd o) s = .next t) : t.Inv :=
  inv_of_arithInto (fun _ _ => hs.source) (finish_eq_next.1 (Machine.exec_subOf rd o s ▸ h))

theorem State.Inv.execCall (hs : s.Inv) {a : BitVec 10} (h : execCall a s = .next t) : t.Inv := by
  obtain ⟨s1, h1, rfl⟩ := execCall_eq_next.1 h
  exact (hs.pushPc h1).jumpPage10 a

theorem State.Inv.execLjmp (hs : s.Inv) {a : BitVec 16} (h : execLjmp a s = .next t) : t.Inv := by
  obtain ⟨-, rfl⟩ := execLjmp_eq_next.1 h
  exact hs.setPc a

theorem State.Inv.execLcall (hs : s.Inv) {a : BitVec 16} (h : execLcall a s = .next t) :
    t.Inv := by
  obtain ⟨-, s1, h1, rfl⟩ := execLcall_eq_next.1 h
  exact (hs.pushPc h1).setPc a

theorem State.Inv.execRet (hs : s.Inv) (h : execRet s = .next t) : t.Inv := by
  obtain ⟨hi, s1, lo, s2, h1, h2, rfl⟩ := execRet_eq_next.1 h
  exact ((hs.popByte h1).popByte h2).setPc _

/-- An instruction that completes keeps the invariant. -/
theorem State.Inv.exec (hs : s.Inv) {i : Instr} (h : exec i s = .next t) : t.Inv := by
  cases i with
  | nop => exact hs.exec_movOf .r0 (.reg .r0) h
  | movRegReg rd rs => exact hs.exec_movOf rd (.reg rs) h
  | movRegInd rd ri => exact hs.exec_movOf rd (.ind ri) h
  | movRegImm rd imm => exact hs.exec_movOf rd (.imm imm) h
  | movRegDir rd dir => exact hs.exec_movOf rd (.dir dir) h
  | anlRegReg rd rs => exact hs.exec_anlOf rd (.reg rs) h
  | anlRegInd rd ri => exact hs.exec_anlOf rd (.ind ri) h
  | anlRegImm rd imm => exact hs.exec_anlOf rd (.imm imm) h
  | anlRegDir rd dir => exact hs.exec_anlOf rd (.dir dir) h
  | addRegReg rd rs => exact hs.exec_addOf rd (.reg rs) h
  | addRegInd rd ri => exact hs.exec_addOf rd (.ind ri) h
  | addRegImm rd imm => exact hs.exec_addOf rd (.imm imm) h
  | addRegDir rd dir => exact hs.exec_addOf rd (.dir dir) h
  | subRegReg rd rs => exact hs.exec_subOf rd (.reg rs) h
  | subRegInd rd ri => exact hs.exec_subOf rd (.ind ri) h
  | subRegImm rd imm => exact hs.exec_subOf rd (.imm imm) h
  | subRegDir rd dir => exact hs.exec_subOf rd (.dir dir) h
  | movIndReg ri rs => exact hs.memWrite (finish_eq_next.1 h)
  | movDirReg dir rs => exact hs.dirWrite (finish_eq_next.1 h)
  | jmp a => cases h; exact hs.jumpPage10 a
  | ljmp a => exact hs.execLjmp h
  | jf f a => cases h; split <;> [exact hs; exact hs.jumpPage8 a]
  | jt f a => cases h; split <;> [exact hs.jumpPage8 a; exact hs]
  | call a => exact hs.execCall h
  | lcall a => exact hs.execLcall h
  | ret => exact hs.execRet h
  | push rs => exact hs.pushByte (finish_eq_next.1 h)
  | pop rd => exact inv_of_moveInto (fun _ _ => hs.popByte) (finish_eq_next.1 h)
  | inc rd | dec rd => cases h; exact hs.putZ rd _
  | srl rd | sra rd | rrc rd => cases h; exact hs.shiftRight rd _
  | cplReg rd => cases h; exact hs.setReg rd _
  | clr f | setb f | cplFlag f => cases h; exact hs.setFlag f _
  | wait p => cases h; exact hs.sampleWait p
  | reserved1000 | reserved100110 | reserved101001 | reserved101101 | reserved10111001
  | reserved1011101 | reserved101111 | reserved111011 | reserved111101 | reserved11111 =>
    cases h

/-- A fetch writes the PC alone, and cuts it. -/
theorem State.Inv.fetch (hs : s.Inv) {i : Instr} (h : s.fetch = .ok (i, t)) : t.Inv := by
  obtain ⟨a, rfl⟩ := State.fetch_ok h
  exact hs.cutPc a

end

/-- Settles O14: a step is a sampling of a held processor, which leaves everything the invariant
speaks of, or a fetch and then an instruction, and each keeps the invariant. -/
theorem stepKeepsInvariant : Obligations.StepKeepsInvariant := by
  intro s t hs h
  rcases step_eq_next.1 h with ⟨p, -, rfl⟩ | ⟨-, i, s1, hfetch, hexec⟩
  · exact hs.sampleWait p
  · exact (hs.fetch hfetch).exec hexec

end Sys2Proof.Machine

namespace Sys2Proof

/-! ## The length of a decoded instruction -/

/-! An operand byte fills a field and has no say in the length: each group decodes to an instruction
as long as with zeros for the operand bytes. -/

theorem length_encode_decodeForm_operand (b1 b2 : Byte) {rr : Reg → Reg → Instr}
    {rm : Reg → Pointer → Instr} {ri rd : Reg → Byte → Instr}
    (hri : ∀ r b, (encode (ri r b)).length = (encode (ri r 0)).length)
    (hrd : ∀ r b, (encode (rd r b)).length = (encode (rd r 0)).length) :
    (encode (decodeForm b1 b2 rr rm ri rd)).length =
      (encode (decodeForm b1 0 rr rm ri rd)).length := by
  unfold decodeForm
  split_ifs <;> [rfl; rfl; exact hri _ b2; exact hrd _ b2]

theorem length_encode_decodeTwoOperand_operand (b1 b2 : Byte) :
    (encode (decodeTwoOperand b1 b2)).length = (encode (decodeTwoOperand b1 0)).length := by
  unfold decodeTwoOperand
  split
  · rfl
  · split_ifs <;>
      exact length_encode_decodeForm_operand b1 b2 (fun _ _ => rfl) (fun _ _ => rfl)

theorem length_encode_decodeStore_operand (b1 b2 : Byte) :
    (encode (decodeStore b1 b2)).length = (encode (decodeStore b1 0)).length := by
  unfold decodeStore
  split_ifs <;> rfl

theorem length_encode_decodeJump_operands (long : Bool) (b1 b2 b3 : Byte) :
    (encode (decodeJump long b1 b2 b3)).length = (encode (decodeJump long b1 0 0)).length := by
  unfold decodeJump
  split_ifs <;> rfl

theorem length_encode_decodeCall_operands (long : Bool) (b1 b2 b3 : Byte) :
    (encode (decodeCall long b1 b2 b3)).length = (encode (decodeCall long b1 0 0)).length := by
  unfold decodeCall
  split_ifs <;> rfl

theorem length_encode_decodeOp_operands (long : Bool) (b1 b2 b3 : Byte) :
    (encode (decodeOp long b1 b2 b3)).length = (encode (decodeOp long b1 0 0)).length := by
  unfold decodeOp
  split
  · exact length_encode_decodeTwoOperand_operand b1 b2
  · split_ifs
    · rfl
    · exact length_encode_decodeStore_operand b1 b2
    · exact length_encode_decodeJump_operands long b1 b2 b3
    · exact length_encode_decodeCall_operands long b1 b2 b3
    all_goals rfl

/-- A decoded instruction is as long as its first byte says (30_encoding.md R90, R91). -/
theorem length_encode_decodeOp (long : Bool) (b1 b2 b3 : Byte) :
    (encode (decodeOp long b1 b2 b3)).length = instrLength long b1 := by
  rw [length_encode_decodeOp_operands]
  revert long b1
  decide

/-- No instruction is longer than three bytes (30_encoding.md R91). -/
theorem length_encode_le (i : Instr) : (encode i).length ≤ 3 := by
  cases i <;> simp [encode]

theorem instrLength_cases (long : Bool) (b1 : Byte) :
    instrLength long b1 = 1 ∨ instrLength long b1 = 2 ∨ instrLength long b1 = 3 := by
  revert long b1
  decide

/-- Without LJMP and LCALL only the bytes A4h and B4h decode to something else (R106, R108). -/
theorem decodeOp_congr_long {b1 : Byte} (hljmp : b1.toNat ≠ 0xA4) (hlcall : b1.toNat ≠ 0xB4)
    (long long' : Bool) (b2 b3 : Byte) : decodeOp long b1 b2 b3 = decodeOp long' b1 b2 b3 := by
  have hlow : bits b1 7 4 = 0b1010 ∨ bits b1 7 4 = 0b1011 → bits b1 3 0 ≠ 0b0100 := by
    simp only [bits, Nat.shiftRight_eq_div_pow]
    omega
  unfold decodeOp
  split_ifs with _ _ _ hA hB
  · rfl
  · rfl
  · rfl
  · simp only [decodeJump, hlow (.inl hA), false_and]
  · simp only [decodeCall, hlow (.inr hB), false_and]
  all_goals rfl

theorem instrLength_congr_long {b1 : Byte} (hljmp : b1.toNat ≠ 0xA4) (hlcall : b1.toNat ≠ 0xB4)
    (long long' : Bool) : instrLength long b1 = instrLength long' b1 := by
  simp [instrLength, hljmp, hlcall]

/-- What three bytes decode to, by the length that the first of them selects (R91, R92). -/
theorem decode_three_bytes {long : Bool} {b1 b2 b3 : Byte} {i : Instr} {rest : List Byte}
    (h : decode long [b1, b2, b3] = .ok (i, rest)) :
    (instrLength long b1 = 1 ∧ i = decodeOp long b1 0 0) ∨
    (instrLength long b1 = 2 ∧ i = decodeOp long b1 b2 0) ∨
    (instrLength long b1 = 3 ∧ i = decodeOp long b1 b2 b3) := by
  rcases instrLength_cases long b1 with hlen | hlen | hlen <;> simp_all [decode]

theorem decode_congr_long {b1 : Byte} (hljmp : b1.toNat ≠ 0xA4) (hlcall : b1.toNat ≠ 0xB4)
    (long long' : Bool) (tail : List Byte) :
    decode long (b1 :: tail) = decode long' (b1 :: tail) := by
  simp only [decode, instrLength_congr_long hljmp hlcall long long',
    decodeOp_congr_long hljmp hlcall long long']

end Sys2Proof

namespace Sys2Proof.Machine

/-! ## The fetch, as the program memory shows it -/

/-- Instruction byte `k` is fetched where `pcAt` says, and the PC then stands at byte `k + 1`. -/
theorem State.fetchByte_pcAt {s : State} {k : Nat} (h : (s.pcAt k).toNat < s.build.progSize) :
    State.fetchByte { s with pc := s.pcAt k } =
      .ok (s.prog.read (s.pcAt k).toNat, { s with pc := s.pcAt (k + 1) }) :=
  State.fetchByte_eq_ok.2 ⟨h, rfl, rfl⟩

/-- A fetch answers the instruction that the bytes at the PC decode to, and moves the PC past them
(00_scope.md R14, 30_encoding.md R92). -/
theorem State.fetch_of_decode {s : State} {i : Instr} {rest : List Byte}
    (hdecode : decode s.build.hasLong s.codeBytes = .ok (i, rest))
    (hfits : ∀ k, k < (encode i).length → (s.pcAt k).toNat < s.build.progSize) :
    s.fetch = .ok (i, { s with pc := s.pcAt (encode i).length }) := by
  have hfetch : ∀ k, k < (encode i).length → State.fetchByte { s with pc := s.pcAt k } =
      .ok (s.prog.read (s.pcAt k).toNat, { s with pc := s.pcAt (k + 1) }) :=
    fun k hk => State.fetchByte_pcAt (hfits k hk)
  rcases decode_three_bytes hdecode with ⟨hlen, hi⟩ | ⟨hlen, hi⟩ | ⟨hlen, hi⟩ <;>
    rw [hi, length_encode_decodeOp, hlen] at hfetch ⊢
  · have h0 : s.fetchByte = _ := hfetch 0 (by omega)
    simp [State.fetch, h0, hlen]
  · have h0 : s.fetchByte = _ := hfetch 0 (by omega)
    simp [State.fetch, h0, hfetch 1, hlen]
  · have h0 : s.fetchByte = _ := hfetch 0 (by omega)
    simp [State.fetch, h0, hfetch 1, hfetch 2, hlen]

/-- Settles O5: nothing is held, so the step is the fetch and then the instruction it answers, and
the fetch is `State.fetch_of_decode`. -/
theorem stepRunsDecodedInstruction : Obligations.StepRunsDecodedInstruction := by
  intro s i rest hwaiting hdecode hfits
  simp only [step, hwaiting, State.fetch_of_decode hdecode hfits]

/-! ## Placing an instruction where the next step fetches it -/

/-- The three addresses of a fetch differ in both widths, wherever the PC stands. -/
theorem cutPc_add_one_ne (w : PcWidth) (a : ProgAddr) :
    cutPc w (a + 1) ≠ a ∧ cutPc w (cutPc w (a + 1) + 1) ≠ a := by
  have ha := a.isLt
  have hone : (1 : ProgAddr).toNat = 1 := rfl
  cases w <;>
    simp only [cutPc, ne_eq, ← BitVec.toNat_inj, BitVec.toNat_setWidth, BitVec.toNat_add, hone] <;>
    omega

theorem State.pcAt_toNat_ne (s : State) (k : Nat) :
    (s.pcAt (k + 1)).toNat ≠ (s.pcAt k).toNat ∧ (s.pcAt (k + 2)).toNat ≠ (s.pcAt k).toNat := by
  obtain ⟨h1, h2⟩ := cutPc_add_one_ne s.build.pcWidth (s.pcAt k)
  exact ⟨fun h => h1 (BitVec.eq_of_toNat_eq h), fun h => h2 (BitVec.eq_of_toNat_eq h)⟩

section
variable (s : State) (b1 b2 b3 : Byte)

@[simp] theorem State.placeBytes_waiting : (s.placeBytes b1 b2 b3).waiting = none := rfl

@[simp] theorem State.placeBytes_hasLong :
    (s.placeBytes b1 b2 b3).build.hasLong =
      (s.build.hasLong || (b1.toNat == 0xA4 || b1.toNat == 0xB4)) := rfl

/-- The three bytes are written at the addresses that the fetch reads in the new state. -/
theorem State.placeBytes_prog :
    (s.placeBytes b1 b2 b3).prog =
      ((s.prog.write ((s.placeBytes b1 b2 b3).pcAt 0).toNat b1).write
        ((s.placeBytes b1 b2 b3).pcAt 1).toNat b2).write
        ((s.placeBytes b1 b2 b3).pcAt 2).toNat b3 := rfl

theorem State.placeBytes_progSize :
    (s.placeBytes b1 b2 b3).build.progSize =
      max s.build.progSize (max ((s.placeBytes b1 b2 b3).pcAt 0).toNat
        (max ((s.placeBytes b1 b2 b3).pcAt 1).toNat
          ((s.placeBytes b1 b2 b3).pcAt 2).toNat) + 1) := rfl

theorem State.pcAt_placeBytes_lt {k : Nat} (hk : k < 3) :
    ((s.placeBytes b1 b2 b3).pcAt k).toNat < (s.placeBytes b1 b2 b3).build.progSize := by
  rw [State.placeBytes_progSize]
  interval_cases k <;> omega

variable {s}

theorem State.codeBytes_placeBytes (hs : s.prog.wf) :
    (s.placeBytes b1 b2 b3).codeBytes = [b1, b2, b3] := by
  obtain ⟨h10, h20⟩ := (s.placeBytes b1 b2 b3).pcAt_toNat_ne 0
  obtain ⟨h21, -⟩ := (s.placeBytes b1 b2 b3).pcAt_toNat_ne 1
  have hwf1 := Memory.wf_write ((s.placeBytes b1 b2 b3).pcAt 0).toNat b1 hs
  have hwf2 := Memory.wf_write ((s.placeBytes b1 b2 b3).pcAt 1).toNat b2 hwf1
  rw [State.codeBytes, State.placeBytes_prog]
  simp only [Memory.read_write _ _ _ _ hwf2.1, Memory.read_write _ _ _ _ hwf1.1,
    Memory.read_write _ _ _ _ hs.1, h10.symm, h20.symm, h21.symm, if_true, if_false]

/-- The build is made to have LJMP and LCALL where the first byte is one of theirs, so placing loses
nothing that the decoder of the full table reads (log 24). -/
theorem State.decode_placeBytes (hs : s.prog.wf) :
    decode (s.placeBytes b1 b2 b3).build.hasLong (s.placeBytes b1 b2 b3).codeBytes =
      decode true [b1, b2, b3] := by
  rw [State.codeBytes_placeBytes b1 b2 b3 hs, State.placeBytes_hasLong]
  by_cases hlong : b1.toNat = 0xA4 ∨ b1.toNat = 0xB4
  · have hbool : (b1.toNat == 0xA4 || b1.toNat == 0xB4) = true := by simpa using hlong
    rw [hbool, Bool.or_true]
  · obtain ⟨hljmp, hlcall⟩ := not_or.1 hlong
    exact decode_congr_long hljmp hlcall _ _ _

end

/-- An instruction of the table is what the decoder of the full table reads from its bytes. -/
theorem decode_of_decodeTableWord {nbits w : Nat} {i : Instr}
    (h : decodeTableWord nbits w = some i) :
    ∃ rest, decode true [tableByte nbits w 0, tableByte nbits w 1, tableByte nbits w 2] =
      .ok (i, rest) := by
  unfold decodeTableWord at h
  split at h <;> simp_all

/-- Settles O18: the placed bytes lie in program memory, at three different addresses, and decode to
the instruction, so O5 applies to the new state. -/
theorem fetchWordRunsNext : Obligations.FetchWordRunsNext := by
  intro s nbits w i hs hword
  obtain ⟨rest, hdecode⟩ := decode_of_decodeTableWord hword
  refine stepRunsDecodedInstruction (s.withFetchWord nbits w) i rest rfl
    ((State.decode_placeBytes _ _ _ hs).trans hdecode) fun k hk => ?_
  exact State.pcAt_placeBytes_lt s _ _ _ (lt_of_lt_of_le hk (length_encode_le i))

end Sys2Proof.Machine

namespace Sys2Proof.Machine

/-! ## What survives an instruction

The tables of Safety.lean say what an instruction may write. One case split over the instructions
(`Survives.exec`) turns them into a frame rule: a property that survives the writes in the
tables survives the instruction. -/

/-- `P` survives every write that the tables give instruction `i`, executed in `s` (10_state.md R20,
R24, R28, R30; 20_memory.md R54, R60, R61; 46_wait.md R185). A field that is left out is a write of
something `P` does not look at, which the lemmas of Laws/State.lean say field by field. -/
structure Survives (P : State → Prop) (i : Instr) (s : State) : Prop where
  setReg : ∀ r ∈ regsWritten i, ∀ u v, P u → P (u.setReg r v) := by intros; simp_all
  setFlag : ∀ f ∈ flagsWritten i, ∀ u b, P u → P (u.setFlag f b) := by intros; simp_all
  setPsw : ∀ rs, i = .movDirReg 0xFF rs → ∀ u v, P u → P (u.setPsw v) := by intros; simp_all
  setPc : writesPc i = true → ∀ u a, P u → P (u.setPc a) := by intros; simp_all
  setSp : ∀ u, P u → P (u.setSp (spAfter s i)) := by intros; simp_all
  store : ∀ a ∈ storesTo s i, ∀ u v, P u →
    P { u with ram := u.ram.write a.toNat v } := by intros; simp_all
  ioRead : ∀ u p, P u → P (u.ioRead p).2 := by intros; simp_all
  ioWrite : ∀ u p v, P u → P (u.ioWrite p v) := by intros; simp_all
  sampleWait : ∀ p, i = .wait p → ∀ u, P u → P (u.sampleWait p) := by intros; simp_all

@[simp] theorem State.reg_withRam (s : State) (m : Memory) (r : Reg) :
    State.reg { s with ram := m } r = s.reg r := by cases r <;> rfl

@[simp] theorem State.flag_withRam (s : State) (m : Memory) (f : FlagName) :
    State.flag { s with ram := m } f = s.flag f := rfl

section
variable {P : State → Prop} {i : Instr} {s t u : State}

theorem Survives.source (hP : Survives P i s) (hs : P s) {o : Operand} {b : Byte}
    (h : o.source s = .ok (b, t)) : P t := by
  rcases Operand.source_ok h with rfl | ⟨p, rfl⟩
  · exact hs
  · exact hP.ioRead s p hs

theorem Survives.setZS (hP : Survives P i s) (hflags : flagsWritten i = [.z, .s]) (hu : P u)
    (v : Byte) : P (u.setZS v) := by
  have hset := hP.setFlag
  simp only [hflags] at hset
  exact hset .s (by simp) _ _ (hset .z (by simp) _ _ hu)

theorem Survives.setCVZS (hP : Survives P i s) (hflags : flagsWritten i = [.c, .v, .z, .s])
    (hu : P u) (o : AluOut) : P (u.setCVZS o) := by
  have hset : ∀ f u b, P u → P (u.setFlag f b) := fun f =>
    hP.setFlag f (by rw [hflags]; cases f <;> decide)
  exact hset .s _ _ (hset .z _ _ (hset .v _ _ (hset .c _ _ hu)))

/-! The operations over a source that can answer only states with `P`. -/

theorem Survives.moveInto (hP : Survives P i s) {rd : Reg} {src : Source}
    (hreg : regsWritten i = [rd]) (hsrc : ∀ b s1, src s = .ok (b, s1) → P s1)
    (h : finish (moveInto rd src s) = .next t) : P t := by
  obtain ⟨b, s1, h1, rfl⟩ := moveInto_eq_ok.1 (finish_eq_next.1 h)
  exact hP.setReg rd (by simp [hreg]) s1 b (hsrc b s1 h1)

theorem Survives.anlInto (hP : Survives P i s) {rd : Reg} {src : Source}
    (hreg : regsWritten i = [rd]) (hflags : flagsWritten i = [.z, .s])
    (hsrc : ∀ b s1, src s = .ok (b, s1) → P s1)
    (h : finish (anlInto rd src s) = .next t) : P t := by
  obtain ⟨b, s1, h1, rfl⟩ := anlInto_eq_ok.1 (finish_eq_next.1 h)
  exact hP.setZS hflags (hP.setReg rd (by simp [hreg]) s1 _ (hsrc b s1 h1)) _

theorem Survives.arithInto (hP : Survives P i s) {law : Byte → Byte → AluOut} {rd : Reg}
    {src : Source} (hreg : regsWritten i = [rd]) (hflags : flagsWritten i = [.c, .v, .z, .s])
    (hsrc : ∀ b s1, src s = .ok (b, s1) → P s1)
    (h : finish (arithInto law rd src s) = .next t) : P t := by
  obtain ⟨b, s1, h1, rfl⟩ := arithInto_eq_ok.1 (finish_eq_next.1 h)
  exact hP.setCVZS hflags (hP.setReg rd (by simp [hreg]) s1 _ (hsrc b s1 h1)) _

theorem Survives.exec_movOf {rd : Reg} {o : Operand} (hP : Survives P (movOf rd o) s) (hs : P s)
    (h : exec (movOf rd o) s = .next t) : P t :=
  hP.moveInto (by cases o <;> rfl) (fun _ _ => hP.source hs) (Machine.exec_movOf rd o s ▸ h)

theorem Survives.exec_anlOf {rd : Reg} {o : Operand} (hP : Survives P (anlOf rd o) s) (hs : P s)
    (h : exec (anlOf rd o) s = .next t) : P t :=
  hP.anlInto (by cases o <;> rfl) (by cases o <;> rfl) (fun _ _ => hP.source hs)
    (Machine.exec_anlOf rd o s ▸ h)

theorem Survives.exec_addOf {rd : Reg} {o : Operand} (hP : Survives P (addOf rd o) s) (hs : P s)
    (h : exec (addOf rd o) s = .next t) : P t :=
  hP.arithInto (by cases o <;> rfl) (by cases o <;> rfl) (fun _ _ => hP.source hs)
    (Machine.exec_addOf rd o s ▸ h)

theorem Survives.exec_subOf {rd : Reg} {o : Operand} (hP : Survives P (subOf rd o) s) (hs : P s)
    (h : exec (subOf rd o) s = .next t) : P t :=
  hP.arithInto (by cases o <;> rfl) (by cases o <;> rfl) (fun _ _ => hP.source hs)
    (Machine.exec_subOf rd o s ▸ h)

theorem Survives.exec_movDirReg {a : Byte} {rs : Reg} (hP : Survives P (.movDirReg a rs) s)
    (hs : P s) (h : exec (.movDirReg a rs) s = .next t) : P t := by
  rcases State.dirWrite_ok (finish_eq_next.1 h) with
    ⟨ha, -, rfl⟩ | ⟨-, -, rfl⟩ | ⟨ha, rfl⟩ | ⟨ha, rfl⟩
  · exact hP.store a (by simp [storesTo, ha]) s _ hs
  · exact hP.ioWrite s _ _ hs
  · obtain rfl : a = 0xFE := BitVec.eq_of_toNat_eq ha
    exact hP.setSp s hs
  · obtain rfl : a = 0xFF := BitVec.eq_of_toNat_eq ha
    exact hP.setPsw rs rfl s _ hs

/-- A return address is pushed as two bytes, and `s.sp + 1 + 1` is the table's `s.sp + 2`. -/
theorem Survives.pushPc (hP : Survives P i s) (hsp : spAfter s i = s.sp + 2)
    (hstore : storesTo s i = [s.sp + 1, s.sp + 2]) (hs : P s) (h : s.pushPc = .ok t) : P t := by
  have hadd : s.sp + 1 + 1 = s.sp + 2 := BitVec.add_assoc s.sp 1 1
  obtain ⟨-, -, rfl⟩ := State.pushPc_eq_ok.1 h
  have hraised := hP.setSp s hs
  rw [hsp] at hraised
  rw [hadd]
  exact hP.store (s.sp + 2) (by simp [hstore]) _ _
    (hP.store (s.sp + 1) (by simp [hstore]) _ _ hraised)

theorem Survives.exec_push {rs : Reg} (hP : Survives P (.push rs) s) (hs : P s)
    (h : exec (.push rs) s = .next t) : P t := by
  obtain ⟨-, rfl⟩ := State.pushByte_eq_ok.1 (finish_eq_next.1 h)
  exact hP.store (s.sp + 1) (by simp [storesTo]) _ _ (hP.setSp s hs)

theorem Survives.exec_pop {rd : Reg} (hP : Survives P (.pop rd) s) (hs : P s)
    (h : exec (.pop rd) s = .next t) : P t := by
  refine hP.moveInto rfl (fun b s1 h1 => ?_) h
  obtain ⟨-, -, rfl⟩ := State.popByte_eq_ok.1 h1
  exact hP.setSp s hs

theorem Survives.exec_call {a : BitVec 10} (hP : Survives P (.call a) s) (hs : P s)
    (h : exec (.call a) s = .next t) : P t := by
  obtain ⟨s1, h1, rfl⟩ := execCall_eq_next.1 h
  exact hP.setPc rfl s1 _ (hP.pushPc rfl rfl hs h1)

theorem Survives.exec_ljmp {a : BitVec 16} (hP : Survives P (.ljmp a) s) (hs : P s)
    (h : exec (.ljmp a) s = .next t) : P t := by
  obtain ⟨-, rfl⟩ := execLjmp_eq_next.1 h
  exact hP.setPc rfl s a hs

theorem Survives.exec_lcall {a : BitVec 16} (hP : Survives P (.lcall a) s) (hs : P s)
    (h : exec (.lcall a) s = .next t) : P t := by
  obtain ⟨-, s1, h1, rfl⟩ := execLcall_eq_next.1 h
  exact hP.setPc rfl s1 a (hP.pushPc rfl rfl hs h1)

/-- A return that completes lowers SP by two and loads the PC. -/
theorem execRet_next (h : execRet s = .next t) : ∃ a, t = (s.setSp (s.sp - 2)).setPc a := by
  obtain ⟨hi, s1, lo, s2, h1, h2, rfl⟩ := execRet_eq_next.1 h
  obtain ⟨-, -, rfl⟩ := State.popByte_eq_ok.1 h1
  obtain ⟨-, -, rfl⟩ := State.popByte_eq_ok.1 h2
  have hsub : s.sp - 1 - 1 = s.sp - 2 := BitVec.sub_sub s.sp 1 1
  exact ⟨hi ++ lo, by rw [← hsub]; rfl⟩

theorem Survives.exec_ret (hP : Survives P .ret s) (hs : P s) (h : exec .ret s = .next t) :
    P t := by
  obtain ⟨a, rfl⟩ := execRet_next h
  exact hP.setPc rfl _ a (hP.setSp s hs)

/-- A property that survives the writes the tables give an instruction survives the instruction. -/
theorem Survives.exec (hP : Survives P i s) (hs : P s) (h : exec i s = .next t) : P t := by
  cases i with
  | nop => cases h; exact hs
  | movRegReg rd rs => exact hP.exec_movOf (o := .reg rs) hs h
  | movRegInd rd ri => exact hP.exec_movOf (o := .ind ri) hs h
  | movRegImm rd imm => exact hP.exec_movOf (o := .imm imm) hs h
  | movRegDir rd dir => exact hP.exec_movOf (o := .dir dir) hs h
  | anlRegReg rd rs => exact hP.exec_anlOf (o := .reg rs) hs h
  | anlRegInd rd ri => exact hP.exec_anlOf (o := .ind ri) hs h
  | anlRegImm rd imm => exact hP.exec_anlOf (o := .imm imm) hs h
  | anlRegDir rd dir => exact hP.exec_anlOf (o := .dir dir) hs h
  | addRegReg rd rs => exact hP.exec_addOf (o := .reg rs) hs h
  | addRegInd rd ri => exact hP.exec_addOf (o := .ind ri) hs h
  | addRegImm rd imm => exact hP.exec_addOf (o := .imm imm) hs h
  | addRegDir rd dir => exact hP.exec_addOf (o := .dir dir) hs h
  | subRegReg rd rs => exact hP.exec_subOf (o := .reg rs) hs h
  | subRegInd rd ri => exact hP.exec_subOf (o := .ind ri) hs h
  | subRegImm rd imm => exact hP.exec_subOf (o := .imm imm) hs h
  | subRegDir rd dir => exact hP.exec_subOf (o := .dir dir) hs h
  | movIndReg ri rs =>
    obtain ⟨-, rfl⟩ := State.memWrite_eq_ok.1 (finish_eq_next.1 h)
    exact hP.store (s.pointer ri) (by simp [storesTo]) s _ hs
  | movDirReg dir rs => exact hP.exec_movDirReg hs h
  | jmp a => cases h; exact hP.setPc rfl s _ hs
  | ljmp a => exact hP.exec_ljmp hs h
  | jf f a => cases h; split <;> [exact hs; exact hP.setPc rfl s _ hs]
  | jt f a => cases h; split <;> [exact hP.setPc rfl s _ hs; exact hs]
  | call a => exact hP.exec_call hs h
  | lcall a => exact hP.exec_lcall hs h
  | ret => exact hP.exec_ret hs h
  | push rs => exact hP.exec_push hs h
  | pop rd => exact hP.exec_pop hs h
  | inc rd | dec rd =>
    cases h
    exact hP.setFlag .z (by simp [flagsWritten]) _ _ (hP.setReg rd (by simp [regsWritten]) s _ hs)
  | srl rd | sra rd | rrc rd =>
    cases h
    exact hP.setFlag .c (by simp [flagsWritten]) _ _ (hP.setReg rd (by simp [regsWritten]) s _ hs)
  | cplReg rd => cases h; exact hP.setReg rd (by simp [regsWritten]) s _ hs
  | clr f | setb f | cplFlag f => cases h; exact hP.setFlag f (by simp [flagsWritten]) s _ hs
  | wait p => cases h; exact hP.sampleWait p rfl s hs
  | reserved1000 | reserved100110 | reserved101001 | reserved101101 | reserved10111001
  | reserved1011101 | reserved101111 | reserved111011 | reserved111101 | reserved11111 =>
    cases h

end

/-! ## The frames of the state's fields -/

theorem exec_keeps_prog_build {i : Instr} {s t : State} (h : exec i s = .next t) :
    t.prog = s.prog ∧ t.build = s.build :=
  Survives.exec (P := fun u => u.prog = s.prog ∧ u.build = s.build) {} ⟨rfl, rfl⟩ h

/-- Settles O12: a sampling and a fetch leave both, and no table gives an instruction a write of
either. -/
theorem stepKeepsProgramAndBuild : Obligations.StepKeepsProgramAndBuild := by
  intro s t h
  rcases step_eq_next.1 h with ⟨p, -, rfl⟩ | ⟨-, i, s1, hfetch, hexec⟩
  · exact ⟨rfl, rfl⟩
  · obtain ⟨a, rfl⟩ := State.fetch_ok hfetch
    obtain ⟨hprog, hbuild⟩ := exec_keeps_prog_build hexec
    exact ⟨hprog, hbuild⟩

/-- Settles O51: a flag outside the table is not the flag written; `MOV PSW,Rs` has all four in the
table. -/
theorem onlyListedFlagsChange : Obligations.OnlyListedFlagsChange := by
  intro i s t f h hf
  refine Survives.exec (P := fun u => u.flag f = s.flag f)
    { setFlag := fun g hg u b hu => ?_, setPsw := fun rs hi => ?_ } rfl h
  · exact (State.flag_setFlag_ne u g f b fun hfg => hf (hfg ▸ hg)).trans hu
  · subst hi
    exact absurd (by cases f <;> simp [flagsWritten]) hf

/-- Settles O52: a register outside the table is not the destination. -/
theorem onlyDestinationRegisterChanges : Obligations.OnlyDestinationRegisterChanges := by
  intro i s t h r hr
  refine Survives.exec (P := fun u => u.reg r = s.reg r) { setReg := fun q hq u v hu => ?_ } rfl h
  exact (State.reg_setReg_ne u q r v fun hrq => hr (hrq ▸ hq)).trans hu

/-- Settles O53: the instructions outside the table write no PC. -/
theorem onlyControlTransfersChangePc : Obligations.OnlyControlTransfersChangePc := by
  intro i s t h hi
  exact Survives.exec (P := fun u => u.pc = s.pc)
    { setPc := fun hpc => absurd hpc (by simp [hi]) } rfl h

/-- An instruction whose entry in the table is the old SP leaves it. -/
theorem exec_keeps_sp {i : Instr} {s t : State} (h : exec i s = .next t)
    (hsp : spAfter s i = s.sp) : t.sp = s.sp :=
  Survives.exec (P := fun u => u.sp = s.sp) { setSp := fun _ _ => hsp } rfl h

/-! The six instructions that move SP. -/

/-- `MOV SP,Rs` (20_memory.md R57). -/
theorem exec_movSp (s : State) (rs : Reg) :
    exec (.movDirReg 0xFE rs) s = .next (s.setSp (s.reg rs)) := by
  simp [exec, execMovDirReg, State.dirWrite]

theorem exec_movSp_sp {s t : State} {rs : Reg} (h : exec (.movDirReg 0xFE rs) s = .next t) :
    t.sp = s.reg rs := by
  rw [exec_movSp] at h
  cases h
  rfl

theorem exec_push_sp {s t : State} {rs : Reg} (h : exec (.push rs) s = .next t) :
    t.sp = s.sp + 1 := by
  obtain ⟨-, rfl⟩ := State.pushByte_eq_ok.1 (finish_eq_next.1 h)
  rfl

theorem exec_pop_sp {s t : State} {rd : Reg} (h : exec (.pop rd) s = .next t) :
    t.sp = s.sp - 1 := by
  obtain ⟨b, s1, h1, rfl⟩ := moveInto_eq_ok.1 (finish_eq_next.1 h)
  obtain ⟨-, -, rfl⟩ := State.popByte_eq_ok.1 h1
  simp

theorem State.pushPc_sp {s t : State} (h : s.pushPc = .ok t) : t.sp = s.sp + 2 := by
  obtain ⟨-, -, rfl⟩ := State.pushPc_eq_ok.1 h
  exact BitVec.add_assoc s.sp 1 1

theorem exec_call_sp {s t : State} {a : BitVec 10} (h : exec (.call a) s = .next t) :
    t.sp = s.sp + 2 := by
  obtain ⟨s1, h1, rfl⟩ := execCall_eq_next.1 h
  exact (State.jumpPage10_sp s1 a).trans (State.pushPc_sp h1)

theorem exec_lcall_sp {s t : State} {a : BitVec 16} (h : exec (.lcall a) s = .next t) :
    t.sp = s.sp + 2 := by
  obtain ⟨-, s1, h1, rfl⟩ := execLcall_eq_next.1 h
  exact (State.setPc_sp s1 a).trans (State.pushPc_sp h1)

theorem exec_ret_sp {s t : State} (h : exec .ret s = .next t) : t.sp = s.sp - 2 := by
  obtain ⟨a, rfl⟩ := execRet_next h
  exact State.setPc_sp _ a

/-- Settles O54: the six instructions that move SP by their own lemmas; the rest keep it. -/
theorem stackPointerAfterInstruction : Obligations.StackPointerAfterInstruction := by
  intro i s t h
  cases i with
  | push rs => exact exec_push_sp h
  | pop rd => exact exec_pop_sp h
  | call a => exact exec_call_sp h
  | lcall a => exact exec_lcall_sp h
  | ret => exact exec_ret_sp h
  | movDirReg dir rs =>
    by_cases hdir : dir = 0xFE
    · subst hdir
      exact exec_movSp_sp h
    · have hkept : spAfter s (.movDirReg dir rs) = s.sp := if_neg hdir
      exact (exec_keeps_sp h hkept).trans hkept.symm
  | _ => exact exec_keeps_sp h rfl

/-- PSW bits 4..7 are no flag, so only a write of the whole PSW reaches them (10_state.md R26). -/
theorem exec_keeps_highBits {i : Instr} {s t : State} (hi : ∀ rs, i ≠ .movDirReg 0xFF rs)
    (h : exec i s = .next t) : t.psw.extractLsb' 4 4 = s.psw.extractLsb' 4 4 :=
  Survives.exec (P := fun u => u.psw.extractLsb' 4 4 = s.psw.extractLsb' 4 4)
    { setPsw := fun rs h => absurd h (hi rs) } rfl h

theorem exec_keeps_samples_waiting {i : Instr} {s t : State} (hi : ∀ p, i ≠ .wait p)
    (h : exec i s = .next t) : t.samples = s.samples ∧ t.waiting = s.waiting :=
  Survives.exec (P := fun u => u.samples = s.samples ∧ u.waiting = s.waiting)
    { sampleWait := fun p h => absurd h (hi p) } ⟨rfl, rfl⟩ h

/-! ## What an instruction does not look at

A change of the state that no instruction looks at and none writes over (`Invisible`) can be made
before an instruction or after it. -/

/-- `f` changes nothing that an instruction looks at and commutes with what an instruction writes;
WAIT and the accesses of the whole PSW are left to `Invisible.exec`. -/
structure Invisible (f : State → State) : Prop where
  build : ∀ s, (f s).build = s.build := by intros; rfl
  reg : ∀ s r, (f s).reg r = s.reg r := by intro s r; cases r <;> rfl
  flag : ∀ s g, (f s).flag g = s.flag g := by intros; rfl
  pc : ∀ s, (f s).pc = s.pc := by intros; rfl
  sp : ∀ s, (f s).sp = s.sp := by intros; rfl
  ram : ∀ s, (f s).ram = s.ram := by intros; rfl
  ioAnswer : ∀ s p, (f s).ioAnswer p = s.ioAnswer p := by intros; rfl
  setReg : ∀ s r v, (f s).setReg r v = f (s.setReg r v) := by intro s r v; cases r <;> rfl
  setFlag : ∀ s g b, (f s).setFlag g b = f (s.setFlag g b) := by intros; rfl
  setPc : ∀ s a, (f s).setPc a = f (s.setPc a) := by intros; rfl
  setSp : ∀ s v, (f s).setSp v = f (s.setSp v) := by intros; rfl
  withRam : ∀ s m, { f s with ram := m } = f { s with ram := m } := by intros; rfl
  ioRead : ∀ s p, ((f s).ioRead p).2 = f (s.ioRead p).2 := by intros; rfl
  ioWrite : ∀ s p v, (f s).ioWrite p v = f (s.ioWrite p v) := by intros; rfl

theorem finish_map (f : State → State) (r : Except Fault State) :
    finish (r.map f) = onNext f (finish r) := by cases r <;> rfl

section
variable {f : State → State} {s : State}

theorem Invisible.pointer (hf : Invisible f) (s : State) (ri : Pointer) :
    (f s).pointer ri = s.pointer ri := by
  cases ri <;> [exact hf.reg s .r0; exact hf.reg s .r1]

theorem Invisible.setCVZS (hf : Invisible f) (s : State) (o : AluOut) :
    (f s).setCVZS o = f (s.setCVZS o) := by
  simp only [State.setCVZS, hf.setFlag]

theorem Invisible.setZS (hf : Invisible f) (s : State) (v : Byte) :
    (f s).setZS v = f (s.setZS v) := by
  simp only [State.setZS, hf.setFlag]

theorem Invisible.putZ (hf : Invisible f) (s : State) (rd : Reg) (v : Byte) :
    (f s).putZ rd v = f (s.putZ rd v) := by
  simp only [State.putZ, State.setZ, hf.setReg, hf.setFlag]

theorem Invisible.shiftRight (hf : Invisible f) (s : State) (rd : Reg) (top : Bool) :
    (f s).shiftRight rd top = f (s.shiftRight rd top) := by
  simp only [State.shiftRight, hf.reg, hf.setReg, hf.setFlag]

theorem Invisible.jumpPage8 (hf : Invisible f) (s : State) (a : Byte) :
    (f s).jumpPage8 a = f (s.jumpPage8 a) := by
  simp only [State.jumpPage8, hf.pc, hf.setPc]

theorem Invisible.jumpPage10 (hf : Invisible f) (s : State) (a : BitVec 10) :
    (f s).jumpPage10 a = f (s.jumpPage10 a) := by
  simp only [State.jumpPage10, hf.pc, hf.setPc]

/-! Memory, direct addresses and the stack -/

theorem Invisible.memRead (hf : Invisible f) (s : State) (a : Byte) :
    (f s).memRead a = s.memRead a := by
  simp only [State.memRead, State.ramByte, hf.build, hf.ram]

theorem Invisible.memWrite (hf : Invisible f) (s : State) (a v : Byte) :
    (f s).memWrite a v = (s.memWrite a v).map f := by
  have hstore := hf.withRam s (s.ram.write a.toNat v)
  unfold State.memWrite
  rw [hf.ram, hstore, hf.build]
  split <;> rfl

theorem Invisible.dirRead (hf : Invisible f) {a : Byte} (hpsw : a = 0xFF → (f s).psw = s.psw) :
    (f s).dirRead a = (s.dirRead a).map (Prod.map id f) := by
  have ha := a.isLt
  unfold State.dirRead
  rw [hf.memRead]
  split_ifs with h1 h2 h3 h4
  · cases s.memRead a <;> rfl
  · exact congrArg Except.ok (Prod.ext (hf.ioAnswer s _) (hf.ioRead s _))
  · rfl
  · rw [hf.sp]; rfl
  · have hFF : a.toNat = 0xFF := by omega
    rw [hpsw (BitVec.eq_of_toNat_eq hFF)]
    rfl

theorem Invisible.dirWrite (hf : Invisible f) {a : Byte}
    (hpsw : a = 0xFF → ∀ v, (f s).setPsw v = f (s.setPsw v)) (v : Byte) :
    (f s).dirWrite a v = (s.dirWrite a v).map f := by
  have ha := a.isLt
  unfold State.dirWrite
  split_ifs with h1 h2 h3 h4
  · exact hf.memWrite s a v
  · rw [hf.ioWrite]; rfl
  · rfl
  · rw [hf.setSp]; rfl
  · have hFF : a.toNat = 0xFF := by omega
    rw [hpsw (BitVec.eq_of_toNat_eq hFF)]
    rfl

theorem Invisible.pushByte (hf : Invisible f) (s : State) (v : Byte) :
    (f s).pushByte v = (s.pushByte v).map f := by
  simp only [State.pushByte, hf.sp, hf.setSp, hf.memWrite]

theorem Invisible.popByte (hf : Invisible f) (s : State) :
    (f s).popByte = s.popByte.map (Prod.map id f) := by
  unfold State.popByte
  rw [hf.sp, hf.memRead, hf.setSp]
  cases s.memRead s.sp <;> rfl

theorem Invisible.pushPc (hf : Invisible f) (s : State) :
    (f s).pushPc = s.pushPc.map f := by
  have hlow : (f s).pcLow = s.pcLow := by simp only [State.pcLow, hf.pc]
  have hhigh : (f s).pcHigh = s.pcHigh := by simp only [State.pcHigh, hf.pc, hf.build]
  unfold State.pushPc
  rw [hlow, hhigh, hf.pushByte]
  cases s.pushByte s.pcLow with
  | error e => rfl
  | ok s1 => exact hf.pushByte s1 s.pcHigh

/-! The operations over a source -/

theorem Invisible.source (hf : Invisible f) {o : Operand}
    (hpsw : o = .dir 0xFF → (f s).psw = s.psw) :
    o.source (f s) = (o.source s).map (Prod.map id f) := by
  cases o with
  | reg rs => simp [Operand.source, hf.reg, Except.map]
  | imm b => rfl
  | dir a => exact hf.dirRead fun ha => hpsw (ha ▸ rfl)
  | ind ri =>
    simp only [Operand.source, srcInd, hf.pointer, hf.memRead]
    cases s.memRead (s.pointer ri) <;> rfl

theorem Invisible.moveInto (hf : Invisible f) {rd : Reg} {src : Source}
    (hsrc : src (f s) = (src s).map (Prod.map id f)) :
    finish (moveInto rd src (f s)) = onNext f (finish (moveInto rd src s)) := by
  unfold Machine.moveInto
  rw [hsrc, ← finish_map]
  cases src s with
  | error e => rfl
  | ok r => exact congrArg Host.Outcome.next (hf.setReg r.2 rd r.1)

theorem Invisible.anlInto (hf : Invisible f) {rd : Reg} {src : Source}
    (hsrc : src (f s) = (src s).map (Prod.map id f)) :
    finish (anlInto rd src (f s)) = onNext f (finish (anlInto rd src s)) := by
  unfold Machine.anlInto
  rw [hsrc, hf.reg, ← finish_map]
  cases src s with
  | error e => rfl
  | ok r => simp [Except.map, hf.setReg, hf.setZS]

theorem Invisible.arithInto (hf : Invisible f) {law : Byte → Byte → AluOut} {rd : Reg}
    {src : Source} (hsrc : src (f s) = (src s).map (Prod.map id f)) :
    finish (arithInto law rd src (f s)) = onNext f (finish (arithInto law rd src s)) := by
  unfold Machine.arithInto
  rw [hsrc, hf.reg, ← finish_map]
  cases src s with
  | error e => rfl
  | ok r => simp [Except.map, hf.setReg, hf.setCVZS]

/-! The instructions -/

theorem Invisible.execCall (hf : Invisible f) (a : BitVec 10) (s : State) :
    execCall a (f s) = onNext f (execCall a s) := by
  unfold Machine.execCall
  rw [hf.pushPc]
  cases s.pushPc with
  | error e => rfl
  | ok s1 => exact congrArg Host.Outcome.next (hf.jumpPage10 s1 a)

theorem Invisible.execLjmp (hf : Invisible f) (a : BitVec 16) (s : State) :
    execLjmp a (f s) = onNext f (execLjmp a s) := by
  unfold Machine.execLjmp
  rw [hf.build, hf.setPc]
  split <;> rfl

theorem Invisible.execLcall (hf : Invisible f) (a : BitVec 16) (s : State) :
    execLcall a (f s) = onNext f (execLcall a s) := by
  unfold Machine.execLcall
  rw [hf.build, hf.pushPc]
  split
  · cases s.pushPc with
    | error e => rfl
    | ok s1 => exact congrArg Host.Outcome.next (hf.setPc s1 a)
  · rfl

theorem Invisible.execRet (hf : Invisible f) (s : State) :
    execRet (f s) = onNext f (execRet s) := by
  unfold Machine.execRet
  rw [hf.popByte]
  cases s.popByte with
  | error e => rfl
  | ok r =>
    obtain ⟨hi, s1⟩ := r
    simp only [Except.map, Prod.map, hf.popByte]
    cases s1.popByte with
    | error e => rfl
    | ok r => exact congrArg Host.Outcome.next (hf.setPc r.2 _)

theorem Invisible.execJf (hf : Invisible f) (g : FlagName) (a : Byte) (s : State) :
    execJf g a (f s) = onNext f (execJf g a s) := by
  unfold Machine.execJf
  rw [hf.flag, hf.jumpPage8]
  split <;> rfl

theorem Invisible.execJt (hf : Invisible f) (g : FlagName) (a : Byte) (s : State) :
    execJt g a (f s) = onNext f (execJt g a s) := by
  unfold Machine.execJt
  rw [hf.flag, hf.jumpPage8]
  split <;> rfl

/-- Making an invisible change before an instruction or after it is the same, where the change is
invisible to what WAIT and the accesses of the PSW do as well. -/
theorem Invisible.exec (hf : Invisible f) {i : Instr}
    (hread : directSource i = some 0xFF → (f s).psw = s.psw)
    (hwrite : ∀ rs, i = .movDirReg 0xFF rs → ∀ v, (f s).setPsw v = f (s.setPsw v))
    (hwait : ∀ p, i = .wait p → (f s).sampleWait p = f (s.sampleWait p)) :
    exec i (f s) = onNext f (exec i s) := by
  have hdir : ∀ a, directSource i = some a →
      (Operand.dir a).source (f s) = ((Operand.dir a).source s).map (Prod.map id f) :=
    fun a ha => hf.source fun h => hread (ha.trans (congrArg some (Operand.dir.inj h)))
  have hother : ∀ o : Operand, (∀ a, o ≠ .dir a) →
      o.source (f s) = (o.source s).map (Prod.map id f) :=
    fun o ho => hf.source fun h => absurd h (ho _)
  cases i with
  | nop => rfl
  | movRegReg rd rs => exact hf.moveInto (hother (.reg rs) nofun)
  | movRegInd rd ri => exact hf.moveInto (hother (.ind ri) nofun)
  | movRegImm rd imm => exact hf.moveInto (hother (.imm imm) nofun)
  | movRegDir rd dir => exact hf.moveInto (hdir dir rfl)
  | anlRegReg rd rs => exact hf.anlInto (hother (.reg rs) nofun)
  | anlRegInd rd ri => exact hf.anlInto (hother (.ind ri) nofun)
  | anlRegImm rd imm => exact hf.anlInto (hother (.imm imm) nofun)
  | anlRegDir rd dir => exact hf.anlInto (hdir dir rfl)
  | addRegReg rd rs | subRegReg rd rs => exact hf.arithInto (hother (.reg rs) nofun)
  | addRegInd rd ri | subRegInd rd ri => exact hf.arithInto (hother (.ind ri) nofun)
  | addRegImm rd imm | subRegImm rd imm => exact hf.arithInto (hother (.imm imm) nofun)
  | addRegDir rd dir | subRegDir rd dir => exact hf.arithInto (hdir dir rfl)
  | movIndReg ri rs =>
    simp only [Machine.exec, execMovIndReg, hf.pointer, hf.reg, hf.memWrite, finish_map]
  | movDirReg dir rs =>
    simp only [Machine.exec, execMovDirReg, hf.reg, ← finish_map]
    exact congrArg finish (hf.dirWrite (fun h => hwrite rs (h ▸ rfl)) _)
  | jmp a => exact congrArg Host.Outcome.next (hf.jumpPage10 s a)
  | ljmp a => exact hf.execLjmp a s
  | jf g a => exact hf.execJf g a s
  | jt g a => exact hf.execJt g a s
  | call a => exact hf.execCall a s
  | lcall a => exact hf.execLcall a s
  | ret => exact hf.execRet s
  | push rs => simp only [Machine.exec, execPush, hf.reg, hf.pushByte, finish_map]
  | pop rd => exact hf.moveInto (hf.popByte s)
  | inc rd => simp only [Machine.exec, execInc, hf.reg, hf.putZ, onNext]
  | dec rd => simp only [Machine.exec, execDec, hf.reg, hf.putZ, onNext]
  | srl rd => simp only [Machine.exec, execSrl, hf.shiftRight, onNext]
  | sra rd => simp only [Machine.exec, execSra, hf.reg, hf.shiftRight, onNext]
  | rrc rd => simp only [Machine.exec, execRrc, hf.flag, hf.shiftRight, onNext]
  | cplReg rd => simp only [Machine.exec, execCplReg, hf.reg, hf.setReg, onNext]
  | clr g => exact congrArg Host.Outcome.next (hf.setFlag s g false)
  | setb g => exact congrArg Host.Outcome.next (hf.setFlag s g true)
  | cplFlag g => simp only [Machine.exec, execCplFlag, hf.flag, hf.setFlag, onNext]
  | wait p => exact congrArg Host.Outcome.next (hwait p rfl)
  | reserved1000 | reserved100110 | reserved101001 | reserved101101 | reserved10111001
  | reserved1011101 | reserved101111 | reserved111011 | reserved111101 | reserved11111 => rfl

end

/-! ## The test inputs -/

/-- The answers ready for the next samplings, replaced. -/
def State.withTestAnswers (levels : List Bool) (s : State) : State :=
  { s with testAnswers := levels }

theorem invisible_withTestAnswers (levels : List Bool) :
    Invisible (State.withTestAnswers levels) := {}

/-- Settles O57: the levels of the test inputs are an invisible change, and sampling is WAIT's
alone. -/
theorem onlyWaitReadsTestInputs : Obligations.OnlyWaitReadsTestInputs := by
  intro i s levels hi
  refine ⟨?_, fun t => exec_keeps_samples_waiting hi⟩
  exact (invisible_withTestAnswers levels).exec (fun _ => rfl) (fun _ _ _ => rfl)
    fun p h => absurd h (hi p)

/-! ## The reserved bits of the PSW -/

/-- PSW bits 4..7 replaced, the flags kept (10_state.md R26). -/
def State.withPswHigh (high : BitVec 4) (s : State) : State :=
  { s with psw := high ++ s.psw.extractLsb' 0 4 }

theorem getLsbD_append_low (high : BitVec 4) (w : Byte) (n : Nat) :
    (high ++ w.extractLsb' 0 4).getLsbD n =
      if n < 4 then w.getLsbD n else high.getLsbD (n - 4) := by
  rw [BitVec.getLsbD_append]
  split_ifs with h <;> simp [h]

/-- A flag lies in the low half of the PSW, so its write leaves the high half as it is. -/
theorem putBit_append_low (high : BitVec 4) (w : Byte) (g : FlagName) (b : Bool) :
    putBit (high ++ w.extractLsb' 0 4) (flagPos g) b =
      high ++ (putBit w (flagPos g) b).extractLsb' 0 4 := by
  have hg := flagPos_lt g
  have hg8 : flagPos g < 8 := by omega
  apply BitVec.eq_of_getLsbD_eq
  intro n _
  simp only [getLsbD_append_low, getLsbD_putBit _ _ _ _ hg8]
  split_ifs <;> [rfl; omega; rfl; rfl]

theorem invisible_withPswHigh (high : BitVec 4) : Invisible (State.withPswHigh high) where
  flag s g := by simp [State.flag, State.withPswHigh, getLsbD_append_low, flagPos_lt]
  setFlag s g b := congrArg s.setPsw (putBit_append_low high s.psw g b)

/-- `MOV PSW,Rs` stores all eight bits. -/
theorem exec_movPsw (s : State) (rs : Reg) :
    exec (.movDirReg 0xFF rs) s = .next (s.setPsw (s.reg rs)) := by
  simp [exec, execMovDirReg, State.dirWrite]

/-- `MOV Rd,PSW` reads all eight bits. -/
theorem exec_movRegPsw (s : State) (rd : Reg) :
    exec (.movRegDir rd 0xFF) s = .next (s.setReg rd s.psw) := by
  simp [exec, execMovRegDir, moveInto, State.dirRead]

/-- Settles O50: the two moves that name the PSW take all of it, the others write flags alone, and
for those that do not name it the reserved bits are an invisible change. -/
theorem pswReservedBitsAreInert : Obligations.PswReservedBitsAreInert := by
  refine ⟨fun s rs rd => ⟨exec_movPsw s rs, ?_⟩, fun i s t => exec_keeps_highBits,
    fun i s high hi hread => ?_⟩
  · exact ⟨_, exec_movRegPsw s rd, State.reg_setReg_same s rd _⟩
  · exact (invisible_withPswHigh high).exec (fun h => absurd h hread)
      (fun rs h => absurd h (hi rs)) fun _ _ => rfl

/-! ## Start-up -/

theorem isStartUp_startUp (b : Build) (prog ram : Memory) (x0 x1 x2 x3 sp : Byte)
    (io : List Byte) (ti : List Bool) :
    (State.startUp b prog x0 x1 x2 x3 sp ram io ti).IsStartUp := ⟨rfl, rfl, rfl, rfl⟩

/-- Settles O16: start-up sets the four fields whatever its arguments, and reset is one start-up. -/
theorem startUpClearsPcAndPsw : Obligations.StartUpClearsPcAndPsw :=
  ⟨isStartUp_startUp, isStartUp_startUp ..⟩

/-- The memory that lists nothing is canonical and in every bound. -/
theorem Memory.wf_nil : Memory.wf [] := ⟨.nil, nofun⟩

theorem build_base_wf : Build.base.wf := by decide

/-- Settles O15: the base build is in range, address 0 fits, and empty memories are canonical. -/
theorem resetHasInvariant : Obligations.ResetHasInvariant :=
  ⟨build_base_wf, by decide, Memory.wf_nil, nofun, Memory.wf_nil, nofun⟩

end Sys2Proof.Machine

namespace Sys2Proof.Machine

/-! ## The program memory is not data -/

/-- The program memory replaced. -/
def State.withProg (p : Memory) (s : State) : State := { s with prog := p }

theorem invisible_withProg (p : Memory) : Invisible (State.withProg p) := {}

/-- Settles O49: replacing the program memory is an invisible change, to WAIT and to the accesses of
the PSW too. -/
theorem programMemoryIsNotData : Obligations.ProgramMemoryIsNotData := by
  intro i s p
  exact (invisible_withProg p).exec (fun _ => rfl) (fun _ _ _ => rfl) (fun _ _ => rfl)

/-! ## The bytes an instruction stores to -/

/-- The memory is canonical and the byte at address `a` is `v`. -/
def Memory.Holds (a v : Byte) (m : Memory) : Prop := m.wf ∧ m.read a.toNat = v

/-- A store elsewhere leaves the byte; that the memory is canonical makes the store local. -/
theorem Memory.Holds.write {a c v : Byte} {m : Memory} (hm : m.Holds a v) (hac : a ≠ c) (w : Byte) :
    (m.write c.toNat w).Holds a v := by
  obtain ⟨hwf, hread⟩ := hm
  refine ⟨Memory.wf_write _ w hwf, ?_⟩
  rw [Memory.read_write _ _ _ _ hwf.1, if_neg fun e => hac (BitVec.eq_of_toNat_eq e), hread]

/-- Settles O55: a byte outside the table is not the byte stored. -/
theorem onlyStoredBytesChange : Obligations.OnlyStoredBytesChange := by
  intro i s t hwf h a ha
  have hheld : t.ram.Holds a (s.ramByte a) :=
    Survives.exec (P := fun u => u.ram.Holds a (s.ramByte a))
      { store := fun c hc u v hu => hu.write (fun hac => ha (hac ▸ hc)) v } ⟨hwf, rfl⟩ h
  exact hheld.2

/-! ## The actions of an instruction -/

/-- The actions of an instruction with a second operand are those of reading it. -/
theorem actionsOf_operand (s : State) (rd : Reg) (o : Operand) :
    actionsOf s (anlOf rd o) = actionsOf s (movOf rd o) ∧
      actionsOf s (addOf rd o) = actionsOf s (movOf rd o) ∧
      actionsOf s (subOf rd o) = actionsOf s (movOf rd o) := by
  cases o <;> exact ⟨rfl, rfl, rfl⟩

section
variable {s t : State}

/-- A direct read makes one read action at 0E0h..0EFh and none elsewhere (20_memory.md R60, R62). -/
theorem State.dirRead_trace {a v : Byte} (rd : Reg) (h : s.dirRead a = .ok (v, t)) :
    t.trace = s.trace ++ actionsOf s (.movRegDir rd a) := by
  simp only [actionsOf, directSource]
  rcases State.dirRead_ok h with
    ⟨ha, -, -, rfl⟩ | ⟨hlow, hhigh, -, rfl⟩ | ⟨ha, -, rfl⟩ | ⟨ha, -, rfl⟩
  · rw [if_neg (by omega), List.append_nil]
  · rw [if_pos ⟨hlow, hhigh⟩, State.ioRead_trace, portOf_eq a hlow hhigh]
  · rw [if_neg (by omega), List.append_nil]
  · rw [if_neg (by omega), List.append_nil]

/-- A direct write makes one write action at 0E0h..0EFh and none elsewhere (20_memory.md R61,
R62). -/
theorem State.dirWrite_trace {a : Byte} {rs : Reg} (h : s.dirWrite a (s.reg rs) = .ok t) :
    t.trace = s.trace ++ actionsOf s (.movDirReg a rs) := by
  simp only [actionsOf, directSource]
  rcases State.dirWrite_ok h with
    ⟨ha, -, rfl⟩ | ⟨hlow, hhigh, rfl⟩ | ⟨ha, rfl⟩ | ⟨ha, rfl⟩
  · rw [if_neg (by omega), List.append_nil]
  · rw [if_pos ⟨hlow, hhigh⟩, State.ioWrite_trace, portOf_eq a hlow hhigh]
  · rw [if_neg (by omega), List.append_nil, State.setSp_trace]
  · rw [if_neg (by omega), List.append_nil, State.setPsw_trace]

theorem Operand.source_trace {o : Operand} {b : Byte} (rd : Reg) (h : o.source s = .ok (b, t)) :
    t.trace = s.trace ++ actionsOf s (movOf rd o) := by
  cases o with
  | reg rs => cases h; exact (List.append_nil _).symm
  | imm b => cases h; exact (List.append_nil _).symm
  | ind ri =>
    obtain ⟨-, -, rfl⟩ := srcInd_eq_ok.1 h
    exact (List.append_nil _).symm
  | dir a => exact State.dirRead_trace rd h

theorem exec_movOf_trace {rd : Reg} {o : Operand} (h : exec (movOf rd o) s = .next t) :
    t.trace = s.trace ++ actionsOf s (movOf rd o) := by
  obtain ⟨b, s1, h1, rfl⟩ := moveInto_eq_ok.1 (finish_eq_next.1 (exec_movOf rd o s ▸ h))
  rw [State.setReg_trace, Operand.source_trace rd h1]

theorem exec_anlOf_trace {rd : Reg} {o : Operand} (h : exec (anlOf rd o) s = .next t) :
    t.trace = s.trace ++ actionsOf s (anlOf rd o) := by
  obtain ⟨b, s1, h1, rfl⟩ := anlInto_eq_ok.1 (finish_eq_next.1 (exec_anlOf rd o s ▸ h))
  rw [State.setZS_trace, State.setReg_trace, Operand.source_trace rd h1,
    (actionsOf_operand s rd o).1]

theorem trace_of_arithInto {law : Byte → Byte → AluOut} {rd : Reg} {o : Operand}
    (h : finish (arithInto law rd o.source s) = .next t) :
    t.trace = s.trace ++ actionsOf s (movOf rd o) := by
  obtain ⟨b, s1, h1, rfl⟩ := arithInto_eq_ok.1 (finish_eq_next.1 h)
  rw [State.setCVZS_trace, State.setReg_trace, Operand.source_trace rd h1]

theorem exec_addOf_trace {rd : Reg} {o : Operand} (h : exec (addOf rd o) s = .next t) :
    t.trace = s.trace ++ actionsOf s (addOf rd o) := by
  rw [(actionsOf_operand s rd o).2.1]
  exact trace_of_arithInto (exec_addOf rd o s ▸ h)

theorem exec_subOf_trace {rd : Reg} {o : Operand} (h : exec (subOf rd o) s = .next t) :
    t.trace = s.trace ++ actionsOf s (subOf rd o) := by
  rw [(actionsOf_operand s rd o).2.2]
  exact trace_of_arithInto (exec_subOf rd o s ▸ h)

/-! The stack is RAM, so its accesses make no action (20_memory.md R58). -/

theorem exec_push_trace {rs : Reg} (h : exec (.push rs) s = .next t) : t.trace = s.trace := by
  obtain ⟨-, rfl⟩ := State.pushByte_eq_ok.1 (finish_eq_next.1 h)
  rfl

theorem exec_pop_trace {rd : Reg} (h : exec (.pop rd) s = .next t) : t.trace = s.trace := by
  obtain ⟨b, s1, h1, rfl⟩ := moveInto_eq_ok.1 (finish_eq_next.1 h)
  obtain ⟨-, -, rfl⟩ := State.popByte_eq_ok.1 h1
  rw [State.setReg_trace, State.setSp_trace]

theorem State.pushPc_trace (h : s.pushPc = .ok t) : t.trace = s.trace := by
  obtain ⟨-, -, rfl⟩ := State.pushPc_eq_ok.1 h
  rfl

theorem exec_call_trace {a : BitVec 10} (h : exec (.call a) s = .next t) : t.trace = s.trace := by
  obtain ⟨s1, h1, rfl⟩ := execCall_eq_next.1 h
  exact (State.jumpPage10_trace s1 a).trans (State.pushPc_trace h1)

theorem exec_lcall_trace {a : BitVec 16} (h : exec (.lcall a) s = .next t) :
    t.trace = s.trace := by
  obtain ⟨-, s1, h1, rfl⟩ := execLcall_eq_next.1 h
  exact (State.setPc_trace s1 a).trans (State.pushPc_trace h1)

theorem exec_ret_trace (h : exec .ret s = .next t) : t.trace = s.trace := by
  obtain ⟨a, rfl⟩ := execRet_next h
  rfl

/-- Where the table gives no action, an unchanged trace is the trace it gives. -/
theorem trace_eq_append_of_quiet {i : Instr} (hquiet : actionsOf s i = [])
    (htrace : t.trace = s.trace) : t.trace = s.trace ++ actionsOf s i := by
  rw [hquiet, htrace, List.append_nil]

end

/-- Settles O56: the instructions with a second operand and `MOV dir,Rs` make the action of their
access; the rest reach RAM, registers and the PC alone and are quiet. -/
theorem actionsOfEachInstruction : Obligations.ActionsOfEachInstruction := by
  intro i s t h
  cases i with
  | movRegReg rd rs => exact exec_movOf_trace (o := .reg rs) h
  | movRegInd rd ri => exact exec_movOf_trace (o := .ind ri) h
  | movRegImm rd imm => exact exec_movOf_trace (o := .imm imm) h
  | movRegDir rd dir => exact exec_movOf_trace (o := .dir dir) h
  | anlRegReg rd rs => exact exec_anlOf_trace (o := .reg rs) h
  | anlRegInd rd ri => exact exec_anlOf_trace (o := .ind ri) h
  | anlRegImm rd imm => exact exec_anlOf_trace (o := .imm imm) h
  | anlRegDir rd dir => exact exec_anlOf_trace (o := .dir dir) h
  | addRegReg rd rs => exact exec_addOf_trace (o := .reg rs) h
  | addRegInd rd ri => exact exec_addOf_trace (o := .ind ri) h
  | addRegImm rd imm => exact exec_addOf_trace (o := .imm imm) h
  | addRegDir rd dir => exact exec_addOf_trace (o := .dir dir) h
  | subRegReg rd rs => exact exec_subOf_trace (o := .reg rs) h
  | subRegInd rd ri => exact exec_subOf_trace (o := .ind ri) h
  | subRegImm rd imm => exact exec_subOf_trace (o := .imm imm) h
  | subRegDir rd dir => exact exec_subOf_trace (o := .dir dir) h
  | movDirReg dir rs => exact State.dirWrite_trace (finish_eq_next.1 h)
  | movIndReg ri rs =>
    obtain ⟨-, rfl⟩ := State.memWrite_eq_ok.1 (finish_eq_next.1 h)
    exact trace_eq_append_of_quiet rfl rfl
  | push rs => exact trace_eq_append_of_quiet rfl (exec_push_trace h)
  | pop rd => exact trace_eq_append_of_quiet rfl (exec_pop_trace h)
  | call a => exact trace_eq_append_of_quiet rfl (exec_call_trace h)
  | lcall a => exact trace_eq_append_of_quiet rfl (exec_lcall_trace h)
  | ret => exact trace_eq_append_of_quiet rfl (exec_ret_trace h)
  | ljmp a =>
    obtain ⟨-, rfl⟩ := execLjmp_eq_next.1 h
    exact trace_eq_append_of_quiet rfl rfl
  | jf f a | jt f a => cases h; split <;> exact trace_eq_append_of_quiet rfl rfl
  | inc rd | dec rd => cases h; exact trace_eq_append_of_quiet rfl (State.putZ_trace s rd _)
  | srl rd | sra rd | rrc rd =>
    cases h
    exact trace_eq_append_of_quiet rfl (State.shiftRight_trace s rd _)
  | cplReg rd => cases h; exact trace_eq_append_of_quiet rfl (State.setReg_trace s rd _)
  | nop | jmp | clr | setb | cplFlag | wait => cases h; exact trace_eq_append_of_quiet rfl rfl
  | reserved1000 | reserved100110 | reserved101001 | reserved101101 | reserved10111001
  | reserved1011101 | reserved101111 | reserved111011 | reserved111101 | reserved11111 =>
    cases h

/-- The table gives no instruction more than one action. -/
theorem length_actionsOf_le (s : State) (i : Instr) : (actionsOf s i).length ≤ 1 := by
  unfold actionsOf
  split
  · split_ifs <;> simp
  · split_ifs <;> simp
  · simp

/-- An action is a read or a write (20_memory.md R59). -/
theorem IoEvent.cycle_ioctl (e : IoEvent) : e.cycle.ioctl = 0b01 ∨ e.cycle.ioctl = 0b10 := by
  cases e with
  | read p v => exact .inl rfl
  | write p v => exact .inr rfl

/-- Settles O13: a sampling and a fetch make no action, and an instruction makes those of O56. -/
theorem stepMakesAtMostOneAction : Obligations.StepMakesAtMostOneAction := by
  intro s t h
  rcases step_eq_next.1 h with ⟨p, -, rfl⟩ | ⟨-, i, s1, hfetch, hexec⟩
  · exact ⟨[], (List.append_nil _).symm, by simp, nofun⟩
  · obtain ⟨a, rfl⟩ := State.fetch_ok hfetch
    have htrace := actionsOfEachInstruction _ _ _ hexec
    exact ⟨_, htrace, length_actionsOf_le _ i,
      fun e _ => IoEvent.cycle_ioctl e⟩

/-! ## Canonical memories -/

theorem Memory.wf_cons {c : Host.Cell} {m : Memory} (h : Memory.wf (c :: m)) :
    (∀ d ∈ m, c.1 < d.1) ∧ c.2 ≠ Memory.unlisted ∧ Memory.wf m := by
  obtain ⟨hrising, hlisted⟩ := h
  obtain ⟨hfirst, hrest⟩ := List.pairwise_cons.1 hrising
  exact ⟨hfirst, hlisted c (by simp), hrest, fun d hd => hlisted d (by simp [hd])⟩

@[simp] theorem Memory.read_cons_self (c : Host.Cell) (m : Memory) :
    Memory.read (c :: m) c.1 = c.2 := if_pos rfl

theorem Memory.read_cons_ne {c : Host.Cell} {a : Nat} (m : Memory) (h : c.1 ≠ a) :
    Memory.read (c :: m) a = m.read a := if_neg h

/-- Everything a canonical memory reads as listed stands at its first address or above. -/
theorem Memory.first_le_of_read_ne {c : Host.Cell} {m : Memory} {a : Nat}
    (hwf : Memory.wf (c :: m)) (ha : Memory.read (c :: m) a ≠ Memory.unlisted) : c.1 ≤ a := by
  by_contra hlt
  obtain ⟨hfirst, -⟩ := Memory.wf_cons hwf
  refine ha (Memory.read_of_lt _ a fun d hd => ?_)
  rcases List.mem_cons.1 hd with rfl | hd
  · omega
  · have := hfirst d hd
    omega

section
variable {c c' : Host.Cell} {m m' : Memory}

/-- A canonical memory with an entry does not read like the empty one. -/
theorem Memory.exists_read_ne_of_wf_cons (h : Memory.wf (c :: m)) :
    ∃ a, Memory.read (c :: m) a ≠ Memory.unlisted := by
  obtain ⟨-, hc, -⟩ := Memory.wf_cons h
  exact ⟨c.1, by rwa [Memory.read_cons_self]⟩

/-- The first entry of a canonical memory is the lowest address that reads as listed. -/
theorem Memory.first_eq_of_read_eq (h : Memory.wf (c :: m)) (h' : Memory.wf (c' :: m'))
    (hread : ∀ a, Memory.read (c :: m) a = Memory.read (c' :: m') a) : c = c' := by
  obtain ⟨-, hc, -⟩ := Memory.wf_cons h
  obtain ⟨-, hc', -⟩ := Memory.wf_cons h'
  have hle : c.1 ≤ c'.1 := Memory.first_le_of_read_ne h (by rwa [hread, Memory.read_cons_self])
  have hge : c'.1 ≤ c.1 := Memory.first_le_of_read_ne h' (by rwa [← hread, Memory.read_cons_self])
  have haddr : c.1 = c'.1 := Nat.le_antisymm hle hge
  have hbyte := hread c.1
  rw [Memory.read_cons_self, haddr, Memory.read_cons_self] at hbyte
  exact Prod.ext haddr hbyte

/-- Below the same first entry, two canonical memories still read alike. -/
theorem Memory.tail_read_eq (h : Memory.wf (c :: m)) (h' : Memory.wf (c :: m'))
    (hread : ∀ a, Memory.read (c :: m) a = Memory.read (c :: m') a) (a : Nat) :
    m.read a = m'.read a := by
  by_cases ha : c.1 = a
  · subst ha
    rw [Memory.read_of_lt m _ (Memory.wf_cons h).1, Memory.read_of_lt m' _ (Memory.wf_cons h').1]
  · rw [← Memory.read_cons_ne m ha, hread, Memory.read_cons_ne m' ha]

end

/-- Settles O59, by induction on the entries: the first entries agree and so do the rest. -/
theorem canonicalMemoriesAreEqual : Obligations.CanonicalMemoriesAreEqual := by
  intro m
  induction m with
  | nil =>
    intro m' _ h' hread
    cases m' with
    | nil => rfl
    | cons c' m' =>
      obtain ⟨a, ha⟩ := Memory.exists_read_ne_of_wf_cons h'
      exact absurd (hread a).symm ha
  | cons c m ih =>
    intro m' h h' hread
    cases m' with
    | nil =>
      obtain ⟨a, ha⟩ := Memory.exists_read_ne_of_wf_cons h
      exact absurd (hread a) ha
    | cons c' m' =>
      obtain rfl := Memory.first_eq_of_read_eq h h' hread
      obtain ⟨-, -, hm⟩ := Memory.wf_cons h
      obtain ⟨-, -, hm'⟩ := Memory.wf_cons h'
      rw [ih m' hm hm' (Memory.tail_read_eq h h' hread)]

/-! ## Accesses that stop the model -/

/-- Instruction byte `k` is not fetched where the program memory ends before it. -/
theorem State.fetchByte_pcAt_outside {s : State} {k : Nat}
    (h : s.build.progSize ≤ (s.pcAt k).toNat) :
    State.fetchByte { s with pc := s.pcAt k } = .error (.fetchOutsideProgram (s.pcAt k)) :=
  State.fetchByte_eq_error.2 ⟨h, rfl⟩

/-- Settles O8: the bytes before the missing one are fetched by `State.fetchByte_pcAt`, and the length
that the first of them selects calls for the missing one. -/
theorem fetchOutsideProgramStops : Obligations.FetchOutsideProgramStops := by
  intro s hwaiting
  refine ⟨fun hout => ?first, fun hin hout hlen => ?second, fun hin0 hin1 hout hlen => ?third⟩ <;>
    refine step_eq_fault.2 ⟨hwaiting, .inl ?_⟩
  case first => rw [State.fetch, State.fetchByte_eq_error.2 ⟨hout, rfl⟩]
  case second =>
    have h0 : s.fetchByte = _ := State.fetchByte_pcAt (k := 0) hin
    have hlong : instrLength s.build.hasLong (s.prog.read (s.pcAt 0).toNat) ≠ 1 := Nat.ne_of_gt hlen
    simp [State.fetch, h0, State.fetchByte_pcAt_outside hout, hlong]
  case third =>
    have h0 : s.fetchByte = _ := State.fetchByte_pcAt (k := 0) hin0
    have hlong : instrLength s.build.hasLong (s.prog.read (s.pcAt 0).toNat) = 3 := hlen
    simp [State.fetch, h0, State.fetchByte_pcAt hin1, State.fetchByte_pcAt_outside hout, hlong]

section
variable {s : State} {f : Fault}

/-- An operand that cannot be read stops each of the four instructions that have it. -/
theorem exec_fault_of_source {o : Operand} (h : o.source s = .error f) (rd : Reg) :
    exec (movOf rd o) s = .fault f ∧ exec (anlOf rd o) s = .fault f ∧
      exec (addOf rd o) s = .fault f ∧ exec (subOf rd o) s = .fault f := by
  rw [exec_movOf, exec_anlOf, exec_addOf, exec_subOf]
  simp only [finish_eq_fault]
  exact ⟨moveInto_eq_error.2 h, anlInto_eq_error.2 h, arithInto_eq_error.2 h,
    arithInto_eq_error.2 h⟩

/-- A direct address that can be neither read nor written stops the five `dir` instructions. -/
theorem exec_fault_of_direct {a : Byte} {r : Reg} (hread : s.dirRead a = .error f)
    (hwrite : s.dirWrite a (s.reg r) = .error f) :
    exec (.movRegDir r a) s = .fault f ∧ exec (.anlRegDir r a) s = .fault f ∧
      exec (.addRegDir r a) s = .fault f ∧ exec (.subRegDir r a) s = .fault f ∧
      exec (.movDirReg a r) s = .fault f := by
  obtain ⟨hmov, hanl, hadd, hsub⟩ := exec_fault_of_source (o := .dir a) hread r
  exact ⟨hmov, hanl, hadd, hsub, finish_eq_fault.2 hwrite⟩

/-- The reserved direct addresses can be neither read nor written (20_memory.md R63). -/
theorem State.dir_reserved {a : Byte} (s : State) (v : Byte) (hlow : 0xF0 ≤ a.toNat)
    (hhigh : a.toNat ≤ 0xFD) :
    s.dirRead a = .error (.reservedDirect a) ∧ s.dirWrite a v = .error (.reservedDirect a) := by
  unfold State.dirRead State.dirWrite
  simp only [if_neg (show ¬ a.toNat ≤ 0xDF by omega), if_neg (show ¬ a.toNat ≤ 0xEF by omega),
    if_pos hhigh, and_self]

/-- Below 0E0h a direct address is a RAM address, and RAM that is not built cannot be accessed
(20_memory.md R56, R57, R72). -/
theorem State.dir_outsideRam {a : Byte} (v : Byte) (hout : s.build.ramSize ≤ a.toNat)
    (ha : a.toNat ≤ 0xDF) :
    s.dirRead a = .error (.outsideRam a) ∧ s.dirWrite a v = .error (.outsideRam a) := by
  unfold State.dirRead State.dirWrite
  rw [if_pos ha, if_pos ha, State.memRead_eq_error.2 ⟨hout, rfl⟩]
  exact ⟨rfl, State.memWrite_eq_error.2 ⟨hout, rfl⟩⟩

/-- Settles O24: neither direction of the access is possible. -/
theorem reservedDirectStops : Obligations.ReservedDirectStops := by
  intro a r s hlow hhigh
  obtain ⟨hread, hwrite⟩ := s.dir_reserved (s.reg r) hlow hhigh
  exact exec_fault_of_direct hread hwrite

/-! The two bytes of a return address -/

theorem State.pushPc_first_outside (h : s.build.ramSize ≤ (s.sp + 1).toNat) :
    s.pushPc = .error (.outsideRam (s.sp + 1)) := by
  rw [State.pushPc, State.pushByte_eq_error.2 ⟨h, rfl⟩]

/-- The first push is done, and the second one finds SP raised: `s.sp + 1 + 1` is `s.sp + 2`. -/
theorem State.pushPc_second_outside (hin : (s.sp + 1).toNat < s.build.ramSize)
    (hout : s.build.ramSize ≤ (s.sp + 2).toNat) : s.pushPc = .error (.outsideRam (s.sp + 2)) := by
  have hadd : s.sp + 1 + 1 = s.sp + 2 := BitVec.add_assoc s.sp 1 1
  rw [← hadd] at hout ⊢
  rw [State.pushPc, State.pushByte_eq_ok.2 ⟨hin, rfl⟩]
  exact State.pushByte_eq_error.2 ⟨hout, rfl⟩

/-- A return address that cannot be pushed stops both calls (42_control.md R155, R156). -/
theorem exec_calls_fault_of_pushPc (h : s.pushPc = .error f) :
    (∀ adr10, exec (.call adr10) s = .fault f) ∧
      (s.build.hasLong = true → ∀ adr16, exec (.lcall adr16) s = .fault f) :=
  ⟨fun a => by simp [exec, execCall, h], fun hlong a => by simp [exec, execLcall, hlong, h]⟩

theorem exec_ret_first_outside (h : s.build.ramSize ≤ s.sp.toNat) :
    exec .ret s = .fault (.outsideRam s.sp) := by
  simp [exec, execRet, State.popByte_eq_error.2 ⟨h, rfl⟩]

/-- The first pop is done, and the second one finds SP lowered. -/
theorem exec_ret_second_outside (hin : s.sp.toNat < s.build.ramSize)
    (hout : s.build.ramSize ≤ (s.sp - 1).toNat) :
    exec .ret s = .fault (.outsideRam (s.sp - 1)) := by
  have hfirst : s.popByte = .ok (s.ramByte s.sp, s.setSp (s.sp - 1)) :=
    State.popByte_eq_ok.2 ⟨hin, rfl, rfl⟩
  have hsecond : (s.setSp (s.sp - 1)).popByte = .error (.outsideRam (s.sp - 1)) :=
    State.popByte_eq_error.2 ⟨hout, rfl⟩
  simp only [exec, execRet, hfirst, hsecond]

end

/-- Settles O25: each clause is the first access that the build has no RAM for. -/
theorem outsideRamStops : Obligations.OutsideRamStops := by
  intro s r ri a
  refine ⟨fun hout ha => ?direct, fun hout => ?indirect, fun hout => ?firstPush,
    fun hin hout => ?secondPush, fun hout => ?firstPop, exec_ret_second_outside⟩
  case direct =>
    obtain ⟨hread, hwrite⟩ := State.dir_outsideRam (s.reg r) hout ha
    exact exec_fault_of_direct hread hwrite
  case indirect =>
    have hsource : (Operand.ind ri).source s = .error (.outsideRam (s.pointer ri)) :=
      srcInd_eq_error.2 ⟨hout, rfl⟩
    obtain ⟨hmov, hanl, hadd, hsub⟩ := exec_fault_of_source hsource r
    exact ⟨hmov, hanl, hadd, hsub, finish_eq_fault.2 (State.memWrite_eq_error.2 ⟨hout, rfl⟩)⟩
  case firstPush =>
    exact ⟨finish_eq_fault.2 (State.pushByte_eq_error.2 ⟨hout, rfl⟩),
      exec_calls_fault_of_pushPc (State.pushPc_first_outside hout)⟩
  case secondPush => exact exec_calls_fault_of_pushPc (State.pushPc_second_outside hin hout)
  case firstPop =>
    exact ⟨finish_eq_fault.2 (moveInto_eq_error.2 (State.popByte_eq_error.2 ⟨hout, rfl⟩)),
      exec_ret_first_outside hout⟩

end Sys2Proof.Machine

namespace Sys2Proof

/-! ## The fields of a first byte -/

/-- The bits `hi` down to `lo` are a field of `hi - lo + 1` bits (00_scope.md R13). -/
theorem toNat_extractLsb'_eq_bits (b : Byte) (lo len : Nat) :
    (b.extractLsb' lo (len + 1)).toNat = bits b (lo + len) lo := by
  rw [BitVec.extractLsb'_toNat, bits, Nat.add_sub_cancel_left]

theorem bits_lt (b : Byte) (lo len : Nat) : bits b (lo + len) lo < 2 ^ (len + 1) := by
  rw [← toNat_extractLsb'_eq_bits]
  exact BitVec.isLt _

/-- The form in which `omega` compares the fields of a byte with the byte. -/
theorem bits_eq (b : Byte) (hi lo : Nat) : bits b hi lo = b.toNat / 2 ^ lo % 2 ^ (hi - lo + 1) := by
  rw [bits, Nat.shiftRight_eq_div_pow]

/-! Numbering the register, pointer, flag or test input that a field selects gives the field back
(30_encoding.md R95, R96, R102, R103). -/

theorem Reg.toNat_code_ofBits {n : Nat} (h : n < 4) : (Reg.ofBits n).code.toNat = n := by
  interval_cases n <;> rfl

theorem Pointer.toNat_code_ofBits {n : Nat} (h : n < 2) : (Pointer.ofBits n).code.toNat = n := by
  interval_cases n <;> rfl

theorem FlagName.toNat_code_ofBits {n : Nat} (h : n < 4) : (FlagName.ofBits n).code.toNat = n := by
  interval_cases n <;> rfl

theorem TestPin.toNat_code_ofBits {n : Nat} (h : n < 4) : (TestPin.ofBits n).code.toNat = n := by
  interval_cases n <;> rfl

@[simp] theorem Reg.code_ofBits_bits (b : Byte) (lo : Nat) :
    (Reg.ofBits (bits b (lo + 1) lo)).code = b.extractLsb' lo 2 := by
  rw [← BitVec.toNat_inj, Reg.toNat_code_ofBits (bits_lt b lo 1), toNat_extractLsb'_eq_bits]

@[simp] theorem Pointer.code_ofBits_bits (b : Byte) (k : Nat) :
    (Pointer.ofBits (bits b k k)).code = b.extractLsb' k 1 := by
  have hlt : bits b k k < 2 := bits_lt b k 0
  rw [← BitVec.toNat_inj, Pointer.toNat_code_ofBits hlt]
  exact (toNat_extractLsb'_eq_bits b k 0).symm

@[simp] theorem FlagName.code_ofBits_bits (b : Byte) (lo : Nat) :
    (FlagName.ofBits (bits b (lo + 1) lo)).code = b.extractLsb' lo 2 := by
  rw [← BitVec.toNat_inj, FlagName.toNat_code_ofBits (bits_lt b lo 1), toNat_extractLsb'_eq_bits]

@[simp] theorem TestPin.code_ofBits_bits (b : Byte) (lo : Nat) :
    (TestPin.ofBits (bits b (lo + 1) lo)).code = b.extractLsb' lo 2 := by
  rw [← BitVec.toNat_inj, TestPin.toNat_code_ofBits (bits_lt b lo 1), toNat_extractLsb'_eq_bits]

/-! A word is the number of its upper bits, put before its lower fields. -/

theorem ofNat_append_extractLsb'_eq {m n k : Nat} {w : BitVec (m + n)} (h : w.toNat / 2 ^ n = k) :
    BitVec.ofNat m k ++ w.extractLsb' 0 n = w := by
  have hk : BitVec.ofNat m k = w.extractLsb' n m := by
    rw [← h, ← BitVec.toNat_inj, BitVec.extractLsb'_toNat, Nat.shiftRight_eq_div_pow,
      BitVec.toNat_ofNat]
  rw [hk, BitVec.extractLsb'_append_extractLsb']

theorem ofNat_append_extractLsb'_append_eq {m l n k : Nat} {w : BitVec (m + l + n)}
    (h : w.toNat / 2 ^ (n + l) = k) :
    BitVec.ofNat m k ++ w.extractLsb' n l ++ w.extractLsb' 0 n = w := by
  have hk : BitVec.ofNat m k = w.extractLsb' (n + l) m := by
    rw [← h, ← BitVec.toNat_inj, BitVec.extractLsb'_toNat, Nat.shiftRight_eq_div_pow,
      BitVec.toNat_ofNat]
  rw [hk, BitVec.extractLsb'_append_extractLsb'_eq_extractLsb' rfl,
    BitVec.extractLsb'_append_extractLsb']

theorem eq_ofNat_of_nibbles {b : Byte} {high low : Nat} (hhigh : bits b 7 4 = high)
    (hlow : bits b 3 0 = low) : BitVec.ofNat 8 (16 * high + low) = b := by
  simp only [bits_eq] at *
  rw [← BitVec.toNat_inj, BitVec.toNat_ofNat]
  omega

section
variable {long : Bool} {b1 b2 b3 : Byte} {rr : Reg → Reg → Instr} {rm : Reg → Pointer → Instr}
  {ri rd : Reg → Byte → Instr}

/-- Whatever holds of the four operand forms holds of what `decodeForm` answers. -/
theorem decodeForm_induction {P : Instr → Prop} (hrr : ∀ r q, P (rr r q)) (hrm : ∀ r p, P (rm r p))
    (hri : ∀ r b, P (ri r b)) (hrd : ∀ r b, P (rd r b)) : P (decodeForm b1 b2 rr rm ri rd) := by
  unfold decodeForm
  split_ifs <;> [exact hrr _ _; exact hrm _ _; exact hri _ _; exact hrd _ _]

/-! ## A decoded instruction is encoded by its bytes

Along the tree of the decoder: in each group the tests on the way to a row fix the bits above its
fields, and the row's encoding puts these bits before the fields. -/

/-- The two-operand instruction whose first byte begins with 0 and then the two bits of `k`. -/
theorem encode_decodeForm {k : Nat} (h : b1.toNat / 2 ^ 5 = k)
    (hrr : ∀ r q, encode (rr r q) = [BitVec.ofNat 4 (2 * k) ++ q.code ++ r.code])
    (hrm : ∀ r p, encode (rm r p) = [BitVec.ofNat 5 (4 * k + 2) ++ p.code ++ r.code])
    (hri : ∀ r b, encode (ri r b) = [BitVec.ofNat 6 (8 * k + 6) ++ r.code, b])
    (hrd : ∀ r b, encode (rd r b) = [BitVec.ofNat 6 (8 * k + 7) ++ r.code, b]) :
    encode (decodeForm b1 b2 rr rm ri rd) <+: [b1, b2, b3] := by
  unfold decodeForm
  split_ifs
  all_goals simp only [hrr, hrm, hri, hrd, Reg.code_ofBits_bits, Pointer.code_ofBits_bits,
    List.cons_prefix_cons, List.nil_prefix, and_true]
  · exact ofNat_append_extractLsb'_append_eq (by simp only [bits_eq] at *; omega)
  · exact ofNat_append_extractLsb'_append_eq (by simp only [bits_eq] at *; omega)
  · exact ofNat_append_extractLsb'_eq (by simp only [bits_eq] at *; omega)
  · exact ofNat_append_extractLsb'_eq (by simp only [bits_eq] at *; omega)

theorem encode_decodeTwoOperand (h : bits b1 7 7 = 0) :
    encode (decodeTwoOperand b1 b2) <+: [b1, b2, b3] := by
  have hk : b1.toNat / 2 ^ 5 = bits b1 6 5 := by
    simp only [bits_eq] at *
    omega
  unfold decodeTwoOperand
  split_ifs with hnop hmov hanl hadd
  · have hzero : 0 = b1 := eq_ofNat_of_nibbles (high := 0) (low := 0)
      (by simp only [bits_eq] at *; omega) (by simp only [bits_eq] at *; omega)
    exact ⟨[b2, b3], by rw [← hzero]; rfl⟩
  · exact encode_decodeForm (hk.trans hmov) (fun _ _ => rfl) (fun _ _ => rfl) (fun _ _ => rfl)
      (fun _ _ => rfl)
  · exact encode_decodeForm (hk.trans hanl) (fun _ _ => rfl) (fun _ _ => rfl) (fun _ _ => rfl)
      (fun _ _ => rfl)
  · exact encode_decodeForm (hk.trans hadd) (fun _ _ => rfl) (fun _ _ => rfl) (fun _ _ => rfl)
      (fun _ _ => rfl)
  · have hsub : bits b1 6 5 = 3 := by
      have hlt : bits b1 6 5 < 4 := bits_lt b1 5 1
      omega
    exact encode_decodeForm (hk.trans hsub) (fun _ _ => rfl) (fun _ _ => rfl) (fun _ _ => rfl)
      (fun _ _ => rfl)

theorem encode_decodeStore (h : bits b1 7 4 = 0b1001) :
    encode (decodeStore b1 b2) <+: [b1, b2, b3] := by
  unfold decodeStore
  split_ifs
  all_goals simp only [encode, Reg.code_ofBits_bits, Pointer.code_ofBits_bits,
    List.cons_prefix_cons, List.nil_prefix, and_true]
  · exact ofNat_append_extractLsb'_append_eq (by simp only [bits_eq] at *; omega)
  · exact ofNat_append_extractLsb'_eq (by simp only [bits_eq] at *; omega)
  · exact ofNat_append_extractLsb'_eq (by simp only [bits_eq] at *; omega)

theorem encode_decodeJump (h : bits b1 7 4 = 0b1010) :
    encode (decodeJump long b1 b2 b3) <+: [b1, b2, b3] := by
  unfold decodeJump
  split_ifs with hjmp hljmp
  all_goals simp only [encode, FlagName.code_ofBits_bits, BitVec.extractLsb'_append_eq_left,
    BitVec.extractLsb'_append_eq_right, List.cons_prefix_cons, List.nil_prefix, and_true]
  · exact ofNat_append_extractLsb'_eq (by simp only [bits_eq] at *; omega)
  · exact eq_ofNat_of_nibbles h hljmp.1
  all_goals exact ofNat_append_extractLsb'_eq (by simp only [bits_eq] at *; omega)

theorem encode_decodeCall (h : bits b1 7 4 = 0b1011) :
    encode (decodeCall long b1 b2 b3) <+: [b1, b2, b3] := by
  unfold decodeCall
  split_ifs with hcall hlcall hshort hret hb9
  all_goals simp only [encode, BitVec.extractLsb'_append_eq_left,
    BitVec.extractLsb'_append_eq_right, List.cons_prefix_cons, List.nil_prefix, and_true]
  · exact ofNat_append_extractLsb'_eq (by simp only [bits_eq] at *; omega)
  · exact eq_ofNat_of_nibbles h hlcall.1
  · exact ofNat_append_extractLsb'_eq (by simp only [bits_eq] at *; omega)
  · exact eq_ofNat_of_nibbles h hret
  · exact eq_ofNat_of_nibbles h hb9
  all_goals exact ofNat_append_extractLsb'_eq (by simp only [bits_eq] at *; omega)

theorem encode_decodeOneReg (h : bits b1 7 5 = 0b110) : encode (decodeOneReg b1) = [b1] := by
  unfold decodeOneReg
  split_ifs
  all_goals
    simp only [encode, Reg.code_ofBits_bits]
    rw [ofNat_append_extractLsb'_eq]
    simp only [bits_eq] at *
    omega

theorem encode_decodeFlagOp (h : bits b1 7 4 = 0b1110) : encode (decodeFlagOp b1) = [b1] := by
  unfold decodeFlagOp
  split_ifs
  all_goals
    simp only [encode, FlagName.code_ofBits_bits]
    rw [ofNat_append_extractLsb'_eq]
    simp only [bits_eq] at *
    omega

theorem encode_decodeWait (h : bits b1 7 4 = 0b1111) : encode (decodeWait b1) = [b1] := by
  unfold decodeWait
  split_ifs
  all_goals
    simp only [encode, TestPin.code_ofBits_bits]
    rw [ofNat_append_extractLsb'_eq]
    simp only [bits_eq] at *
    omega

theorem encode_reserved1000 (h : bits b1 7 4 = 0b1000) :
    encode (.reserved1000 (b1.extractLsb' 0 4)) = [b1] := by
  rw [encode, ofNat_append_extractLsb'_eq]
  simp only [bits_eq] at h
  omega

/-- The last two groups of first bytes, which the decoder reaches by exclusion. -/
theorem bits_eq_wait_of_not (htop : ¬ bits b1 7 7 = 0) (hres : ¬ bits b1 7 4 = 0b1000)
    (hstore : ¬ bits b1 7 4 = 0b1001) (hjump : ¬ bits b1 7 4 = 0b1010)
    (hcall : ¬ bits b1 7 4 = 0b1011) (hone : ¬ bits b1 7 5 = 0b110)
    (hflag : ¬ bits b1 7 4 = 0b1110) : bits b1 7 4 = 0b1111 := by
  simp only [bits_eq] at *
  omega

theorem encode_decodeOp_isPrefix (long : Bool) (b1 b2 b3 : Byte) :
    encode (decodeOp long b1 b2 b3) <+: [b1, b2, b3] := by
  have hshort : ∀ {i : Instr}, encode i = [b1] → encode i <+: [b1, b2, b3] :=
    fun h => ⟨[b2, b3], by rw [h]; rfl⟩
  unfold decodeOp
  split_ifs with htwo hres hstore hjump hcall hone hflag
  · exact encode_decodeTwoOperand htwo
  · exact hshort (encode_reserved1000 hres)
  · exact encode_decodeStore hstore
  · exact encode_decodeJump hjump
  · exact encode_decodeCall hcall
  · exact hshort (encode_decodeOneReg hone)
  · exact hshort (encode_decodeFlagOp hflag)
  · exact hshort (encode_decodeWait (bits_eq_wait_of_not htwo hres hstore hjump hcall hone hflag))

/-- No bit is dropped: a decoded instruction is encoded by as many bytes as its first byte calls for
(30_encoding.md R90, R91, R104). -/
theorem encode_decodeOp (long : Bool) (b1 b2 b3 : Byte) :
    encode (decodeOp long b1 b2 b3) = [b1, b2, b3].take (instrLength long b1) := by
  rw [← length_encode_decodeOp long b1 b2 b3]
  exact List.prefix_iff_eq_take.1 (encode_decodeOp_isPrefix long b1 b2 b3)

/-! ## A decoded instruction is well-formed -/

/-- Only `MOV R0,R0` would be encoded by the byte of NOP (30_encoding.md R113). -/
theorem wf_movRegReg_iff {r q : Reg} :
    (Instr.movRegReg r q).wf long = true ↔ encode (.movRegReg r q) ≠ encode .nop := by
  cases r <;> cases q <;> simp [Instr.wf, encode, Reg.code]

theorem wf_decodeForm_mov
    (h : encode (decodeForm b1 b2 .movRegReg .movRegInd .movRegImm .movRegDir) ≠ encode .nop) :
    (decodeForm b1 b2 .movRegReg .movRegInd .movRegImm .movRegDir).wf long = true :=
  decodeForm_induction (P := fun i => encode i ≠ encode .nop → i.wf long = true)
    (fun _ _ => wf_movRegReg_iff.2) (fun _ _ _ => rfl) (fun _ _ _ => rfl) (fun _ _ _ => rfl) h

theorem wf_decodeTwoOperand (h : bits b1 7 7 = 0) : (decodeTwoOperand b1 b2).wf long = true := by
  have hbytes := encode_decodeTwoOperand (b2 := b2) (b3 := 0) h
  unfold decodeTwoOperand at hbytes ⊢
  split_ifs at hbytes ⊢ with hnop
  · rfl
  · refine wf_decodeForm_mov fun hzero => hnop ?_
    rw [hzero] at hbytes
    obtain ⟨rfl, -⟩ := List.cons_prefix_cons.1 hbytes
    rfl
  all_goals
    exact decodeForm_induction (P := fun i => i.wf long = true) (fun _ _ => rfl) (fun _ _ => rfl)
      (fun _ _ => rfl) (fun _ _ => rfl)

/-- A4h and B4h reach their reserved rows only where they are not LJMP and LCALL (R106, R108). -/
theorem wf_reserved_of_not_long (hrow : bits b1 3 2 = 0b01)
    (hshort : ¬(bits b1 3 0 = 0b0100 ∧ long = true)) :
    (Instr.reserved101001 (b1.extractLsb' 0 2)).wf long = true ∧
      (Instr.reserved101101 (b1.extractLsb' 0 2)).wf long = true := by
  have hfield : long = true → b1.extractLsb' 0 2 ≠ 0 := by
    intro hlong hzero
    have hlow : bits b1 1 0 = 0 := by
      rw [← toNat_extractLsb'_eq_bits b1 0 1, hzero]
      rfl
    refine hshort ⟨?_, hlong⟩
    simp only [bits_eq] at *
    omega
  cases long with
  | false => exact ⟨rfl, rfl⟩
  | true => simpa [Instr.wf] using hfield rfl

theorem wf_decodeJump : (decodeJump long b1 b2 b3).wf long = true := by
  unfold decodeJump
  split_ifs with hjmp hljmp hshort
  · rfl
  · exact hljmp.2
  · exact (wf_reserved_of_not_long hshort hljmp).1
  all_goals rfl

theorem wf_decodeCall : (decodeCall long b1 b2 b3).wf long = true := by
  unfold decodeCall
  split_ifs with hcall hlcall hshort
  · rfl
  · exact hlcall.2
  · exact (wf_reserved_of_not_long hshort hlcall).2
  all_goals rfl

theorem wf_decodeOp (long : Bool) (b1 b2 b3 : Byte) : (decodeOp long b1 b2 b3).wf long = true := by
  unfold decodeOp
  split_ifs with htwo
  · exact wf_decodeTwoOperand htwo
  · rfl
  · unfold decodeStore; split_ifs <;> rfl
  · exact wf_decodeJump
  · exact wf_decodeCall
  · unfold decodeOneReg; split_ifs <;> rfl
  · unfold decodeFlagOp; split_ifs <;> rfl
  · unfold decodeWait; split_ifs <;> rfl

/-! ## The bytes that `decode` takes and those it leaves -/

theorem decode_eq_ok {bytes rest : List Byte} {i : Instr} (h : decode long bytes = .ok (i, rest)) :
    ∃ b1 b2 b3, i = decodeOp long b1 b2 b3 ∧
      bytes = [b1, b2, b3].take (instrLength long b1) ++ rest := by
  unfold decode at h
  split at h
  · cases h
  next b1 tail =>
    split_ifs at h with hone htwo
    · cases h
      exact ⟨b1, 0, 0, rfl, by rw [hone]; rfl⟩
    · split at h
      · cases h
        exact ⟨b1, _, 0, rfl, by rw [htwo]; rfl⟩
      · cases h
    · have hthree : instrLength long b1 = 3 := by
        have hlen := instrLength_cases long b1
        omega
      split at h
      · cases h
        exact ⟨b1, _, _, rfl, by rw [hthree]; rfl⟩
      · cases h

/-- The decoder reads the operand bytes that the first byte calls for, and 0 for the others. -/
theorem decode_append {tail : List Byte} (hlen : tail.length + 1 = instrLength long b1)
    (rest : List Byte) : decode long (b1 :: tail ++ rest) =
      .ok (decodeOp long b1 (tail.getD 0 0) (tail.getD 1 0), rest) := by
  rcases instrLength_cases long b1 with h | h | h
  · obtain rfl : tail = [] := List.length_eq_zero_iff.1 (by omega)
    simp [decode, h]
  · obtain ⟨b2, rfl⟩ : ∃ b2, tail = [b2] := List.length_eq_one_iff.1 (by omega)
    simp [decode, h]
  · obtain ⟨b2, b3, rfl⟩ : ∃ b2 b3, tail = [b2, b3] := List.length_eq_two.1 (by omega)
    simp [decode, h]

end

/-- Settles O2: a decoded instruction is one of `decodeOp`, which answers well-formed instructions
alone and drops no bit. -/
theorem encodeOfDecode : Obligations.EncodeOfDecode := by
  intro long bytes i rest h
  obtain ⟨b1, b2, b3, rfl, rfl⟩ := decode_eq_ok h
  exact ⟨wf_decodeOp long b1 b2 b3, by rw [encode_decodeOp]⟩

/-! ## An encoded instruction decodes to itself -/

/-! The first byte of JMP and CALL holds the two upper bits of the target (30_encoding.md R100). -/

theorem decodeOp_jmp (long : Bool) (x : BitVec 2) (b2 b3 : Byte) :
    decodeOp long (0b101000#6 ++ x) b2 b3 = .jmp (x ++ b2) := by
  have hrow : ∀ x : BitVec 2, bits (0b101000#6 ++ x) 7 7 = 1 ∧
      bits (0b101000#6 ++ x) 7 4 = 0b1010 ∧ bits (0b101000#6 ++ x) 3 2 = 0b00 := by decide
  have hfield : (0b101000#6 ++ x).extractLsb' 0 2 = x := BitVec.extractLsb'_append_eq_right
  obtain ⟨htop, hgroup, hjmp⟩ := hrow x
  simp [decodeOp, decodeJump, htop, hgroup, hjmp, hfield]

theorem decodeOp_call (long : Bool) (x : BitVec 2) (b2 b3 : Byte) :
    decodeOp long (0b101100#6 ++ x) b2 b3 = .call (x ++ b2) := by
  have hrow : ∀ x : BitVec 2, bits (0b101100#6 ++ x) 7 7 = 1 ∧
      bits (0b101100#6 ++ x) 7 4 = 0b1011 ∧ bits (0b101100#6 ++ x) 3 2 = 0b00 := by decide
  have hfield : (0b101100#6 ++ x).extractLsb' 0 2 = x := BitVec.extractLsb'_append_eq_right
  obtain ⟨htop, hgroup, hcall⟩ := hrow x
  simp [decodeOp, decodeCall, htop, hgroup, hcall, hfield]

/-- The decoder evaluated on the first byte of every row, for each value of the row's fields. -/
theorem decodeOp_encode {long : Bool} {i : Instr} (h : i.wf long = true) :
    ∃ b1 tail, encode i = b1 :: tail ∧
      decodeOp long b1 (tail.getD 0 0) (tail.getD 1 0) = i := by
  cases i with
  | nop | ret | reserved10111001 => exact ⟨_, _, rfl, rfl⟩
  | movRegReg rd rs =>
    cases rd <;> cases rs
    case r0.r0 => cases h
    all_goals exact ⟨_, _, rfl, rfl⟩
  | anlRegReg rd rs | addRegReg rd rs | subRegReg rd rs =>
    cases rd <;> cases rs <;> exact ⟨_, _, rfl, rfl⟩
  | movRegInd r p | anlRegInd r p | addRegInd r p | subRegInd r p | movIndReg p r =>
    cases r <;> cases p <;> exact ⟨_, _, rfl, rfl⟩
  | movRegImm r b | anlRegImm r b | addRegImm r b | subRegImm r b
  | movRegDir r b | anlRegDir r b | addRegDir r b | subRegDir r b | movDirReg b r
  | push r | pop r | inc r | dec r | srl r | sra r | rrc r | cplReg r =>
    cases r <;> exact ⟨_, _, rfl, rfl⟩
  | jf f b | jt f b | clr f | setb f | cplFlag f => cases f <;> exact ⟨_, _, rfl, rfl⟩
  | wait p => cases p <;> exact ⟨_, _, rfl, rfl⟩
  | jmp a =>
    exact ⟨_, _, rfl, (decodeOp_jmp ..).trans
      (congrArg Instr.jmp BitVec.extractLsb'_append_extractLsb')⟩
  | call a =>
    exact ⟨_, _, rfl, (decodeOp_call ..).trans
      (congrArg Instr.call BitVec.extractLsb'_append_extractLsb')⟩
  | ljmp a =>
    obtain rfl : long = true := h
    exact ⟨_, _, rfl, congrArg Instr.ljmp BitVec.extractLsb'_append_extractLsb'⟩
  | lcall a =>
    obtain rfl : long = true := h
    exact ⟨_, _, rfl, congrArg Instr.lcall BitVec.extractLsb'_append_extractLsb'⟩
  | reserved1000 x | reserved100110 x | reserved101001 x | reserved101101 x | reserved1011101 x
  | reserved101111 x | reserved111011 x | reserved111101 x | reserved11111 x =>
    refine ⟨_, _, rfl, ?_⟩
    revert x long
    decide

/-- Settles O1: the bytes of the instruction are as many as their first byte calls for, since a
decoded instruction has that length, so `decode` takes them and no more. -/
theorem decodeOfEncode : Obligations.DecodeOfEncode := by
  intro long i rest hwf
  obtain ⟨b1, tail, hbytes, hop⟩ := decodeOp_encode hwf
  have hlen := length_encode_decodeOp long b1 (tail.getD 0 0) (tail.getD 1 0)
  rw [hop, hbytes, List.length_cons] at hlen
  rw [hbytes, decode_append hlen, hop]

/-- Settles O4: the decoder evaluated on each word. -/
theorem matrixCellsDecode : Obligations.MatrixCellsDecode :=
  ⟨rfl, rfl, rfl, rfl, rfl, rfl, rfl, rfl, rfl, rfl, rfl⟩

end Sys2Proof

namespace Sys2Proof.Machine

/-! ## The reserved first bytes

Along the tree of the decoder again: the tests on the way to a row tell whether its first bytes are
in the list of 30_encoding.md R106. -/

section
variable {long : Bool} {b1 b2 b3 : Byte}

/-- The list of R106, by the upper bits that the bytes of a range share. -/
theorem reservedByte_iff :
    reservedByte long b1 = true ↔
      b1.toNat / 16 = 0x8 ∨ b1.toNat / 4 = 0x26 ∨
      (b1.toNat / 4 = 0x29 ∨ b1.toNat / 4 = 0x2D) ∧ (b1.toNat % 4 = 0 → long = false) ∨
      (0xB9 ≤ b1.toNat ∧ b1.toNat ≤ 0xBF) ∨ b1.toNat / 4 = 0x3B ∨ 0xF4 ≤ b1.toNat := by
  cases long <;> simp [reservedByte] <;> omega

theorem isReserved_decodeTwoOperand : isReserved (decodeTwoOperand b1 b2) = false := by
  unfold decodeTwoOperand
  split_ifs
  · rfl
  all_goals
    exact decodeForm_induction (P := fun i => isReserved i = false) (fun _ _ => rfl)
      (fun _ _ => rfl) (fun _ _ => rfl) (fun _ _ => rfl)

theorem isReserved_decodeStore (h : bits b1 7 4 = 0b1001) :
    isReserved (decodeStore b1 b2) = true ↔ reservedByte long b1 = true := by
  rw [reservedByte_iff]
  unfold decodeStore
  split_ifs
  all_goals
    simp only [isReserved, bits_eq, true_iff, Bool.false_eq_true, false_iff] at *
    omega

theorem isReserved_decodeJump (h : bits b1 7 4 = 0b1010) :
    isReserved (decodeJump long b1 b2 b3) = true ↔ reservedByte long b1 = true := by
  rw [reservedByte_iff]
  unfold decodeJump
  split_ifs with hjmp hljmp hshort hjf
  all_goals simp only [isReserved, bits_eq, true_iff, Bool.false_eq_true, false_iff] at *
  · omega
  · obtain ⟨hlow, rfl⟩ := hljmp
    simp only [reduceCtorEq, imp_false]
    omega
  · cases long <;> simp at hljmp ⊢ <;> omega
  · omega
  · omega

theorem isReserved_decodeCall (h : bits b1 7 4 = 0b1011) :
    isReserved (decodeCall long b1 b2 b3) = true ↔ reservedByte long b1 = true := by
  rw [reservedByte_iff]
  unfold decodeCall
  split_ifs with hcall hlcall hshort hret hb9
  all_goals simp only [isReserved, bits_eq, true_iff, Bool.false_eq_true, false_iff] at *
  · omega
  · obtain ⟨hlow, rfl⟩ := hlcall
    simp only [reduceCtorEq, imp_false]
    omega
  · cases long <;> simp at hlcall ⊢ <;> omega
  all_goals omega

theorem isReserved_decodeOneReg : isReserved (decodeOneReg b1) = false := by
  unfold decodeOneReg
  split_ifs <;> rfl

theorem isReserved_decodeFlagOp (h : bits b1 7 4 = 0b1110) :
    isReserved (decodeFlagOp b1) = true ↔ reservedByte long b1 = true := by
  rw [reservedByte_iff]
  unfold decodeFlagOp
  split_ifs
  all_goals
    simp only [isReserved, bits_eq, true_iff, Bool.false_eq_true, false_iff] at *
    omega

theorem isReserved_decodeWait (h : bits b1 7 4 = 0b1111) :
    isReserved (decodeWait b1) = true ↔ reservedByte long b1 = true := by
  rw [reservedByte_iff]
  unfold decodeWait
  split_ifs
  all_goals
    simp only [isReserved, bits_eq, true_iff, Bool.false_eq_true, false_iff] at *
    omega

end

theorem isReserved_decodeOp (long : Bool) (b1 b2 b3 : Byte) :
    isReserved (decodeOp long b1 b2 b3) = reservedByte long b1 := by
  rw [Bool.eq_iff_iff]
  unfold decodeOp
  split_ifs with htwo hres hstore hjump hcall hone hflag
  · rw [isReserved_decodeTwoOperand, reservedByte_iff]
    simp only [bits_eq, Bool.false_eq_true, false_iff] at *
    omega
  · rw [reservedByte_iff]
    simp only [isReserved, bits_eq, true_iff] at *
    omega
  · exact isReserved_decodeStore hstore
  · exact isReserved_decodeJump hjump
  · exact isReserved_decodeCall hcall
  · rw [isReserved_decodeOneReg, reservedByte_iff]
    simp only [bits_eq, Bool.false_eq_true, false_iff] at *
    omega
  · exact isReserved_decodeFlagOp hflag
  · exact isReserved_decodeWait
      (bits_eq_wait_of_not htwo hres hstore hjump hcall hone hflag)

/-- Settles O3: the reserved rows are those of the list, by `isReserved_decodeOp`, and the two counts
are evaluated. -/
theorem reservedCodesComplete : Obligations.ReservedCodesComplete :=
  ⟨isReserved_decodeOp, by decide, by decide⟩

/-- Settles O48: the meaning of a reserved row is the fault with the row's own byte. -/
theorem reservedRowsStop : Obligations.ReservedRowsStop := by
  intro i s h
  cases i with
  | reserved1000 | reserved100110 | reserved101001 | reserved101101 | reserved10111001
  | reserved1011101 | reserved101111 | reserved111011 | reserved111101 | reserved11111 =>
    exact ⟨_, rfl, rfl⟩
  | _ => cases h

theorem exec_decodeOp_of_reservedByte {long : Bool} {b1 : Byte} (h : reservedByte long b1 = true)
    (s : State) : instrLength long b1 = 1 ∧
      exec (decodeOp long b1 0 0) s = .fault (.reservedOpcode b1) := by
  rw [← isReserved_decodeOp long b1 0 0] at h
  obtain ⟨c, hbytes, hexec⟩ := reservedRowsStop _ s h
  have hlen := length_encode_decodeOp long b1 0 0
  have htake := encode_decodeOp long b1 0 0
  rw [hbytes] at hlen htake
  rw [← hlen] at htake
  obtain rfl : c = b1 := List.singleton_inj.1 htake
  exact ⟨hlen.symm, hexec⟩

/-- Settles O9: a reserved first byte calls for no further byte, so the fetch answers its row, and
the row stops with the byte that encodes it. -/
theorem reservedFirstByteStops : Obligations.ReservedFirstByteStops := by
  intro s hwaiting hin hres
  obtain ⟨hlen, hexec⟩ := exec_decodeOp_of_reservedByte hres { s with pc := s.pcAt 1 }
  refine step_eq_fault.2 ⟨hwaiting, .inr ⟨_, _, ?_, hexec⟩⟩
  have hfetch : s.fetchByte = _ := State.fetchByte_pcAt (k := 0) hin
  simp [State.fetch, hfetch, State.pcAt, hlen]

end Sys2Proof.Machine

namespace Sys2Proof

open Machine

/-! ## The operands the assembler accepts -/

theorem isSome_asmImm (n : Int) : (asmImm n).isSome = true ↔ -128 ≤ n ∧ n ≤ 255 := by
  unfold asmImm
  split <;> simp_all

theorem toNat_of_asmImm {n : Int} {b : Byte} (h : asmImm n = some b) :
    (b.toNat : Int) = n % 256 := by
  unfold asmImm at h
  split at h
  · cases h
    rw [BitVec.toNat_ofInt]
    omega
  · cases h

theorem asmAdr8_eq_some {w : PcWidth} {here target : ProgAddr} {x : Byte} :
    asmAdr8 w here target = some x ↔
      (cutPc w (here + 2)).extractLsb' 8 8 = target.extractLsb' 8 8 ∧
        target.extractLsb' 0 8 = x := by
  simp [asmAdr8]

theorem asmAdr10_eq_some {w : PcWidth} {here target : ProgAddr} {x : BitVec 10} :
    asmAdr10 w here target = some x ↔
      (cutPc w (here + 2)).extractLsb' 10 6 = target.extractLsb' 10 6 ∧
        target.extractLsb' 0 10 = x := by
  simp [asmAdr10]

theorem isSome_asmAdr8 (w : PcWidth) (here target : ProgAddr) :
    (asmAdr8 w here target).isSome = true ↔
      (cutPc w (here + 2)).toNat / 256 = target.toNat / 256 := by
  simp [Option.isSome_iff_exists, asmAdr8_eq_some, page8_eq_iff]

theorem isSome_asmAdr10 (w : PcWidth) (here target : ProgAddr) :
    (asmAdr10 w here target).isSome = true ↔
      (cutPc w (here + 2)).toNat / 1024 = target.toNat / 1024 := by
  simp [Option.isSome_iff_exists, asmAdr10_eq_some, page10_eq_iff]

/-- A 10-bit PC has the one page 0 of 1 KiB. -/
theorem isSome_asmAdr10_bits10 (here : ProgAddr) {target : ProgAddr} (h : target.toNat < 1024) :
    (asmAdr10 .bits10 here target).isSome = true := by
  have hnext : (cutPc .bits10 (here + 2)).toNat < 1024 := cutPc_lt .bits10 _
  rw [isSome_asmAdr10, Nat.div_eq_of_lt hnext, Nat.div_eq_of_lt h]

/-! ## Where an accepted operand leads -/

theorem cutPc_of_lt {w : PcWidth} {a : ProgAddr} (h : a.toNat < 2 ^ w.bits) : cutPc w a = a := by
  cases w with
  | bits10 =>
    rw [← BitVec.toNat_inj]
    simp only [cutPc, PcWidth.bits, BitVec.toNat_setWidth] at *
    omega
  | bits16 => rfl

section
variable {s : State} {here target : ProgAddr}

/-! The page of the next instruction is the target's, so page and operand together are the target
(30_encoding.md R99, R100, R111). -/

theorem jumpPage8_of_asmAdr8 {x : Byte} (h : asmAdr8 s.build.pcWidth here target = some x)
    (htarget : target.toNat < 2 ^ s.build.pcWidth.bits)
    (hpc : s.pc = cutPc s.build.pcWidth (here + 2)) : s.jumpPage8 x = { s with pc := target } := by
  obtain ⟨hpage, rfl⟩ := asmAdr8_eq_some.1 h
  rw [State.jumpPage8, State.setPc, hpc, hpage, BitVec.extractLsb'_append_extractLsb',
    cutPc_of_lt htarget]

theorem jumpPage10_of_asmAdr10 {x : BitVec 10}
    (h : asmAdr10 s.build.pcWidth here target = some x)
    (htarget : target.toNat < 2 ^ s.build.pcWidth.bits)
    (hpc : s.pc = cutPc s.build.pcWidth (here + 2)) : s.jumpPage10 x = { s with pc := target } := by
  obtain ⟨hpage, rfl⟩ := asmAdr10_eq_some.1 h
  rw [State.jumpPage10, State.setPc, hpc, hpage, BitVec.extractLsb'_append_extractLsb',
    cutPc_of_lt htarget]

/-- The pushes leave the PC alone, so a CALL leads where a JMP with its operand leads. -/
theorem exec_call_pc (x : BitVec 10) (hlow : (s.sp + 1).toNat < s.build.ramSize)
    (hhigh : (s.sp + 2).toNat < s.build.ramSize) :
    ∃ t, exec (.call x) s = .next t ∧ t.pc = (s.jumpPage10 x).pc := by
  have hadd : s.sp + 1 + 1 = s.sp + 2 := BitVec.add_assoc s.sp 1 1
  have hpush := State.pushPc_eq_ok.2 ⟨hlow, hadd ▸ hhigh, rfl⟩
  exact ⟨_, execCall_eq_next.2 ⟨_, hpush, rfl⟩, rfl⟩

end

/-- Settles O58: which operands are accepted, and then, for the jumps and the call, that the page
jump with an accepted operand is a jump to the target. -/
theorem assembledOperandsReachTarget : Obligations.AssembledOperandsReachTarget := by
  refine ⟨isSome_asmImm, fun _ _ => toNat_of_asmImm, isSome_asmAdr8, isSome_asmAdr10,
    fun here _ => isSome_asmAdr10_bits10 here, fun f x here target s hx htarget hpc => ?adr8,
    fun x here target s hx htarget hpc => ?adr10⟩
  case adr8 =>
    rw [← jumpPage8_of_asmAdr8 hx htarget hpc]
    exact ⟨fun hf => by simp [exec, execJf, hf], fun hf => by simp [exec, execJt, hf]⟩
  case adr10 =>
    have hjump := jumpPage10_of_asmAdr10 hx htarget hpc
    refine ⟨congrArg Host.Outcome.next hjump, fun hlow hhigh => ?_⟩
    obtain ⟨t, hexec, htpc⟩ := exec_call_pc x hlow hhigh
    exact ⟨t, hexec, by rw [htpc, hjump]⟩

end Sys2Proof

namespace Sys2Proof.Machine

/-! ## MOV and NOP -/

/-- Settles O19: NOP writes R0 back to itself, which is the state as it was. -/
theorem nopChangesNothing : Obligations.NopChangesNothing :=
  ⟨rfl, fun _ => ⟨rfl, rfl⟩⟩

/-- An operand is read and a register is then written: the read makes the operand's actions and
nothing else, and the write leaves all but its register. -/
theorem Operand.setReg_after_read {o : Operand} {s : State} {v : Byte} (hdelivers : o.Delivers s v)
    (rd : Reg) (w : Byte) :
    ∃ s1, o.source s = .ok (v, s1) ∧ KeepsRegs s (s1.setReg rd w) [rd] ∧
      (s1.setReg rd w).psw = s.psw ∧ (s1.setReg rd w).sp = s.sp ∧ (s1.setReg rd w).pc = s.pc ∧
      KeepsRam s (s1.setReg rd w) [] ∧ KeepsConstants s (s1.setReg rd w) ∧
      o.EnvAfter s (s1.setReg rd w) v := by
  obtain ⟨s1, hread, hreg, hpsw, hsp, hpc, hram, hconstants, henv⟩ :=
    Operand.source_of_delivers hdelivers
  have hregs : KeepsRegs s (s1.setReg rd w) [rd] := fun r hr =>
    (State.reg_setReg_ne s1 rd r w (List.ne_of_not_mem_cons hr)).trans (hreg r)
  have hbytes : KeepsRam s (s1.setReg rd w) [] := fun a _ => by
    rw [State.setReg_ramByte, State.ramByte, hram, State.ramByte]
  have hkept : KeepsConstants s (s1.setReg rd w) := by
    simpa only [KeepsConstants, State.setReg_build, State.setReg_prog, State.setReg_waiting]
      using hconstants
  have hactions : o.EnvAfter s (s1.setReg rd w) v :=
    Operand.envAfter_congr henv (s1.setReg_trace rd w) (s1.setReg_ioAnswers rd w)
      (s1.setReg_testAnswers rd w) (s1.setReg_samples rd w)
  exact ⟨s1, hread, hregs, (s1.setReg_psw rd w).trans hpsw, (s1.setReg_sp rd w).trans hsp,
    (s1.setReg_pc rd w).trans hpc, hbytes, hkept, hactions⟩

/-- Settles O20: a MOV is a read of its operand and a write of that byte to Rd. -/
theorem movCopiesOperand : Obligations.MovCopiesOperand := by
  intro rd o s v hdelivers
  obtain ⟨s1, hread, hframe⟩ := Operand.setReg_after_read hdelivers rd v
  have hexec : exec (movOf rd o) s = .next (s1.setReg rd v) := by
    rw [exec_movOf]
    exact finish_eq_next.2 (moveInto_eq_ok.2 ⟨v, s1, hread, rfl⟩)
  exact ⟨s1.setReg rd v, hexec, s1.reg_setReg_same rd v, hframe⟩

/-- A store to RAM that the build has changes the one byte (20_memory.md R53, R58). -/
theorem State.memWrite_changes_one_byte {s : State} {a : Byte} (v : Byte) (hwf : s.ram.wf)
    (ha : a.toNat < s.build.ramSize) :
    ∃ t, s.memWrite a v = .ok t ∧ t.ramByte a = v ∧ KeepsRam s t [a] ∧ KeepsRegs s t [] ∧
      t.psw = s.psw ∧ t.sp = s.sp ∧ t.pc = s.pc ∧ KeepsConstants s t ∧ KeepsEnv s t := by
  refine ⟨_, State.memWrite_eq_ok.2 ⟨ha, rfl⟩, ?stored, fun c hc => ?kept,
    fun r _ => State.reg_withRam s _ r, rfl, rfl, rfl, .refl s, .refl s⟩
  case stored => rw [State.ramByte_write s a v a hwf, if_pos rfl]
  case kept => rw [State.ramByte_write s a v c hwf, if_neg (List.ne_of_not_mem_cons hc)]

/-- Settles O21: the store goes to RAM whatever the address. -/
theorem movIndirectStores : Obligations.MovIndirectStores := by
  intro ri rs s hwf hri
  obtain ⟨t, hwrite, hframe⟩ := State.memWrite_changes_one_byte (s.reg rs) hwf hri
  exact ⟨t, finish_eq_next.2 hwrite, hframe⟩

/-- Below 0E0h a direct address is a RAM address (20_memory.md R57). -/
theorem State.dirWrite_ram {a : Byte} (s : State) (v : Byte) (ha : a.toNat ≤ 0xDF) :
    s.dirWrite a v = s.memWrite a v := if_pos ha

/-- At 0E0h..0EFh a direct write is a write action at the port (20_memory.md R57, R61). -/
theorem State.dirWrite_port {a : Byte} (s : State) (v : Byte) (hlow : 0xE0 ≤ a.toNat)
    (hhigh : a.toNat ≤ 0xEF) :
    s.dirWrite a v = .ok (s.ioWrite (BitVec.ofNat 4 (a.toNat - 0xE0)) v) := by
  rw [State.dirWrite, if_neg (by omega), if_pos hhigh, portOf_eq a hlow hhigh]

/-- Settles O22: the four ranges of a direct write. -/
theorem movDirectWrites : Obligations.MovDirectWrites := by
  intro a rs s
  refine ⟨fun ha hbuilt hwf => ?ram, fun hlow hhigh => ?port, fun ha => ?sp, fun ha => ?psw⟩
  case ram =>
    obtain ⟨t, hwrite, hframe⟩ := State.memWrite_changes_one_byte (s.reg rs) hwf hbuilt
    exact ⟨t, finish_eq_next.2 ((s.dirWrite_ram (s.reg rs) ha).trans hwrite), hframe⟩
  case port => exact finish_eq_next.2 (s.dirWrite_port (s.reg rs) hlow hhigh)
  case sp =>
    obtain rfl : a = 0xFE := BitVec.eq_of_toNat_eq ha
    exact exec_movSp s rs
  case psw =>
    obtain rfl : a = 0xFF := BitVec.eq_of_toNat_eq ha
    exact exec_movPsw s rs

end Sys2Proof.Machine

namespace Sys2Proof.Machine

/-! ## ANL, ADD and SUB -/

/-! The laws of 41_alu.md as statements about numbers. -/

/-- Bit by bit, ANL's result is the conjunction (R133). -/
theorem getLsbD_anlValue (a b : Byte) (n : Nat) :
    (anlValue a b).getLsbD n = (a.getLsbD n && b.getLsbD n) := BitVec.getLsbD_and

/-- The sign of a byte is its bit 7. -/
theorem msb_eq_bit7 (a : Byte) : a.msb = a.getLsbD 7 := BitVec.msb_eq_getLsbD_last a

theorem addLaw_value_toNat (a b : Byte) :
    (addLaw a b).value.toNat = (a.toNat + b.toNat) % 256 := BitVec.toNat_ofNat ..

theorem addLaw_c (a b : Byte) : (addLaw a b).c = true ↔ 256 ≤ a.toNat + b.toNat := by
  simp only [addLaw, decide_eq_true_eq]

theorem addLaw_z (a b : Byte) : (addLaw a b).z = true ↔ (addLaw a b).value = 0 := by
  simp only [addLaw, beq_iff_eq]

theorem addLaw_s (a b : Byte) : (addLaw a b).s = (addLaw a b).value.getLsbD 7 :=
  msb_eq_bit7 _

theorem subLaw_value_toNat (a b : Byte) :
    (subLaw a b).value.toNat = (256 + a.toNat - b.toNat) % 256 := by
  have ha := a.isLt
  have hb := b.isLt
  simp only [subLaw, BitVec.toNat_sub]
  omega

theorem subLaw_c (a b : Byte) : (subLaw a b).c = true ↔ a.toNat < b.toNat := by
  simp only [subLaw, decide_eq_true_eq]

theorem subLaw_z (a b : Byte) : (subLaw a b).z = true ↔ (subLaw a b).value = 0 := by
  simp only [subLaw, beq_iff_eq]

theorem subLaw_s (a b : Byte) : (subLaw a b).s = (subLaw a b).value.getLsbD 7 :=
  msb_eq_bit7 _

/-- The difference is 0 only of a byte and itself (R132). -/
theorem subLaw_z_iff_eq (a b : Byte) : (subLaw a b).z = true ↔ a = b :=
  (subLaw_z a b).trans sub_eq_zero

/-- S of SUB as a range of the signed difference: negative, or too large, where the result's sign is
the opposite (R132). -/
theorem subLaw_s_iff (a b : Byte) :
    (subLaw a b).s = true ↔
      (-128 ≤ a.toInt - b.toInt ∧ a.toInt - b.toInt < 0) ∨ 127 < a.toInt - b.toInt := by
  rw [subLaw_s, ← msb_eq_bit7, BitVec.msb_eq_decide, decide_eq_true_eq, subLaw_value_toNat,
    BitVec.toInt_eq_toNat_cond, BitVec.toInt_eq_toNat_cond]
  have ha := a.isLt
  have hb := b.isLt
  split_ifs <;> omega

/-- S tells the sign of the difference where V is 0 and the opposite where V is 1 (R132). -/
theorem subLaw_s_xor_v (a b : Byte) :
    ((subLaw a b).s ^^ (subLaw a b).v) = true ↔ a.toInt < b.toInt := by
  rw [Bool.xor_iff_ne, ne_eq, Bool.eq_iff_iff, subLaw_s_iff, subLaw_v]
  omega

/-! What the two flag writes leave -/

section
variable {s u : State}

theorem State.flag_congr (hpsw : u.psw = s.psw) (f : FlagName) : u.flag f = s.flag f :=
  congrArg (fun w : Byte => w.getLsbD (flagPos f)) hpsw

theorem keepsFlags_setZS (hpsw : u.psw = s.psw) (r : Byte) : KeepsFlags s (u.setZS r) [.z, .s] := by
  obtain ⟨hc, hv, -, -⟩ := u.flag_setZS r
  refine ⟨fun f hf => ?_, (u.setZS_highBits r).trans (congrArg _ hpsw)⟩
  cases f with
  | c => exact hc.trans (State.flag_congr hpsw .c)
  | v => exact hv.trans (State.flag_congr hpsw .v)
  | z | s => simp at hf

theorem keepsFlags_setCVZS (hpsw : u.psw = s.psw) (r : AluOut) :
    KeepsFlags s (u.setCVZS r) [.c, .v, .z, .s] := by
  refine ⟨fun f hf => ?_, (u.setCVZS_highBits r).trans (congrArg _ hpsw)⟩
  cases f <;> simp at hf

/-- The frame of an instruction with a second operand: all but Rd and the PSW, with the environment's
side as reading the operand leaves it (R130). -/
def Operand.Frame (o : Operand) (rd : Reg) (v : Byte) (s t : State) : Prop :=
  KeepsRegs s t [rd] ∧ t.sp = s.sp ∧ t.pc = s.pc ∧ KeepsRam s t [] ∧ KeepsConstants s t ∧
    o.EnvAfter s t v

variable {o : Operand} {rd : Reg} {v : Byte}

theorem Operand.Frame.setPsw (h : o.Frame rd v s u) (w : Byte) : o.Frame rd v s (u.setPsw w) := by
  obtain ⟨hregs, hsp, hpc, hram, hconstants, henv⟩ := h
  exact ⟨fun r hr => (u.setPsw_reg w r).trans (hregs r hr), hsp, hpc, hram, hconstants,
    Operand.envAfter_congr henv rfl rfl rfl rfl⟩

/-! Both flag writes set the PSW and nothing else. -/

theorem Operand.Frame.setZS (h : o.Frame rd v s u) (r : Byte) : o.Frame rd v s (u.setZS r) :=
  h.setPsw (u.setZS r).psw

theorem Operand.Frame.setCVZS (h : o.Frame rd v s u) (r : AluOut) :
    o.Frame rd v s (u.setCVZS r) :=
  h.setPsw (u.setCVZS r).psw

theorem Operand.Delivers.setReg_frame (h : o.Delivers s v) (rd : Reg) (w : Byte) :
    ∃ s1, o.source s = .ok (v, s1) ∧ (s1.setReg rd w).psw = s.psw ∧
      o.Frame rd v s (s1.setReg rd w) := by
  obtain ⟨s1, hread, hregs, hpsw, hframe⟩ := Operand.setReg_after_read h rd w
  exact ⟨s1, hread, hpsw, hregs, hframe⟩

/-- ANL reads its operand, writes the conjunction to Rd and sets Z and S from it (R130, R133). -/
theorem finish_anlInto_of_delivers (h : o.Delivers s v) (rd : Reg) :
    ∃ t, finish (anlInto rd o.source s) = .next t ∧
      t.reg rd = anlValue (s.reg rd) v ∧
      (t.flag .z = (anlValue (s.reg rd) v == 0) ∧ t.flag .s = (anlValue (s.reg rd) v).msb) ∧
      KeepsFlags s t [.z, .s] ∧ o.Frame rd v s t := by
  obtain ⟨s1, hread, hpsw, hframe⟩ := h.setReg_frame rd (anlValue (s.reg rd) v)
  obtain ⟨-, -, hflags⟩ := State.flag_setZS (s1.setReg rd _) (anlValue (s.reg rd) v)
  refine ⟨_, finish_eq_next.2 (anlInto_eq_ok.2 ⟨v, s1, hread, rfl⟩), ?value, hflags,
    keepsFlags_setZS hpsw _, hframe.setZS _⟩
  case value => rw [State.setZS_reg, State.reg_setReg_same]

/-- ADD and SUB read their operand, write the law's value to Rd and set the law's four flags (R130 to
R132). -/
theorem finish_arithInto_of_delivers (h : o.Delivers s v) (law : Byte → Byte → AluOut) (rd : Reg) :
    ∃ t, finish (arithInto law rd o.source s) = .next t ∧
      t.reg rd = (law (s.reg rd) v).value ∧
      (t.flag .c = (law (s.reg rd) v).c ∧ t.flag .v = (law (s.reg rd) v).v ∧
        t.flag .z = (law (s.reg rd) v).z ∧ t.flag .s = (law (s.reg rd) v).s) ∧
      KeepsFlags s t [.c, .v, .z, .s] ∧ o.Frame rd v s t := by
  obtain ⟨s1, hread, hpsw, hframe⟩ := h.setReg_frame rd (law (s.reg rd) v).value
  refine ⟨_, finish_eq_next.2 (arithInto_eq_ok.2 ⟨v, s1, hread, rfl⟩), ?value,
    State.flag_setCVZS _ _, keepsFlags_setCVZS hpsw _, hframe.setCVZS _⟩
  case value => rw [State.setCVZS_reg, State.reg_setReg_same]

end

/-- Settles O26: ANL as `finish_anlInto_of_delivers` has it, its result read bit by bit. -/
theorem anlAndsIntoRegister : Obligations.AnlAndsIntoRegister := by
  intro rd o s v hdelivers
  obtain ⟨t, hexec, hvalue, ⟨hz, hs⟩, hframe⟩ := finish_anlInto_of_delivers hdelivers rd
  refine ⟨t, (exec_anlOf rd o s).trans hexec, ?_⟩
  rw [hvalue, hz, hs, beq_iff_eq]
  exact ⟨fun n _ => getLsbD_anlValue _ _ n, Iff.rfl, msb_eq_bit7 _, hframe⟩

/-- Settles O27: the law of ADD as `finish_arithInto_of_delivers` applies it, read as numbers. -/
theorem addSumsIntoRegister : Obligations.AddSumsIntoRegister := by
  intro rd o s v hdelivers
  obtain ⟨t, hexec, hvalue, ⟨hc, hv, hz, hs⟩, hframe⟩ :=
    finish_arithInto_of_delivers hdelivers addLaw rd
  refine ⟨t, (exec_addOf rd o s).trans hexec, ?_⟩
  rw [hvalue, hc, hv, hz, hs]
  exact ⟨addLaw_value_toNat _ _, addLaw_c _ _, addLaw_v _ _, addLaw_z _ _, addLaw_s _ _, hframe⟩

/-- Settles O28: the law of SUB as `finish_arithInto_of_delivers` applies it, read as numbers. -/
theorem subSubtractsFromRegister : Obligations.SubSubtractsFromRegister := by
  intro rd o s v hdelivers
  obtain ⟨t, hexec, hvalue, ⟨hc, hv, hz, hs⟩, hframe⟩ :=
    finish_arithInto_of_delivers hdelivers subLaw rd
  refine ⟨t, (exec_subOf rd o s).trans hexec, ?_⟩
  rw [hvalue, hc, hv, hz, hs]
  exact ⟨subLaw_value_toNat _ _, subLaw_c _ _, subLaw_v _ _, subLaw_z _ _, subLaw_s _ _, hframe⟩

/-- Settles O29: the flags after SUB are those of its law, and these compare the operands. -/
theorem subComparesOperands : Obligations.SubComparesOperands := by
  intro rd o s t v hdelivers hexec
  obtain ⟨t', hexec', -, ⟨hc, hv, hz, hs⟩, -⟩ := finish_arithInto_of_delivers hdelivers subLaw rd
  obtain rfl : t' = t :=
    Host.Outcome.next.inj (hexec'.symm.trans ((exec_subOf rd o s).symm.trans hexec))
  rw [hz, hc, hs, hv]
  exact ⟨subLaw_z_iff_eq _ _, subLaw_c _ _, subLaw_s_xor_v _ _⟩

end Sys2Proof.Machine

namespace Sys2Proof.Machine

/-! ## Control transfer -/

/-! ### The program counter and its pages, as numbers -/

/-- The left operand of an append counts in units of the right one's range. -/
theorem toNat_append_eq_mul_add {m n : Nat} (x : BitVec m) (y : BitVec n) :
    (x ++ y).toNat = x.toNat * 2 ^ n + y.toNat := by
  rw [BitVec.toNat_append, ← Nat.shiftLeft_add_eq_or_of_lt y.isLt, Nat.shiftLeft_eq]

theorem cutPc_toNat (w : PcWidth) (a : ProgAddr) : (cutPc w a).toNat = a.toNat % 2 ^ w.bits := by
  cases w with
  | bits10 =>
    simp only [cutPc, PcWidth.bits, BitVec.toNat_setWidth]
    omega
  | bits16 => exact (Nat.mod_eq_of_lt a.isLt).symm

/-- Byte and page number of an address give the address of the byte in that 256-byte page (R99). -/
theorem toNat_page8_append (pc : ProgAddr) (a : Byte) :
    (pc.extractLsb' 8 8 ++ a).toNat = pc.toNat / 256 * 256 + a.toNat := by
  have hpc := pc.isLt
  rw [toNat_append_eq_mul_add, BitVec.extractLsb'_toNat, Nat.shiftRight_eq_div_pow]
  omega

/-- The same for a 1 KiB page (R100). -/
theorem toNat_page10_append (pc : ProgAddr) (a : BitVec 10) :
    (pc.extractLsb' 10 6 ++ a).toNat = pc.toNat / 1024 * 1024 + a.toNat := by
  have hpc := pc.isLt
  rw [toNat_append_eq_mul_add, BitVec.extractLsb'_toNat, Nat.shiftRight_eq_div_pow]
  omega

section
variable {s : State}

/-- A 10-bit PC has no bits above those that a JMP loads (R151). -/
theorem State.jumpPage10_pc_toNat_bits10 (a : BitVec 10) (hw : s.build.pcWidth = .bits10) :
    (s.jumpPage10 a).pc.toNat = a.toNat := by
  have ha := a.isLt
  rw [State.jumpPage10_pc, cutPc_toNat, toNat_page10_append, hw, PcWidth.bits]
  omega

theorem State.jumpPage10_pc_toNat_bits16 (a : BitVec 10) (hw : s.build.pcWidth = .bits16) :
    (s.jumpPage10 a).pc.toNat = s.pc.toNat / 1024 * 1024 + a.toNat := by
  rw [State.jumpPage10_pc, hw]
  exact toNat_page10_append s.pc a

/-- A 256-byte page lies within the PC's range or outside it, so the cut takes nothing off. -/
theorem State.jumpPage8_pc_toNat (a : Byte) (hpc : s.PcFits) :
    (s.jumpPage8 a).pc.toNat = s.pc.toNat / 256 * 256 + a.toNat := by
  have ha := a.isLt
  have hfits : (s.pc.extractLsb' 8 8 ++ a).toNat < 2 ^ s.build.pcWidth.bits := by
    rw [toNat_page8_append]
    cases hw : s.build.pcWidth <;> simp only [State.PcFits, hw, PcWidth.bits] at hpc ⊢ <;> omega
  rw [State.jumpPage8_pc, cutPc_of_lt hfits, toNat_page8_append]

/-! ### The jumps -/

/-- A build with LJMP and LCALL has a 16-bit PC (R4), so every address fits it. -/
theorem State.pcFits_of_hasLong (hwf : s.build.wf) (hlong : s.build.hasLong = true) :
    s.PcFits := by
  obtain ⟨-, -, -, -, hwidth⟩ := hwf
  rw [State.PcFits, hwidth hlong]
  exact s.pc.isLt

theorem State.setPc_of_hasLong (hwf : s.build.wf) (hlong : s.build.hasLong = true)
    (a : ProgAddr) : s.setPc a = { s with pc := a } := by
  have hfits : State.PcFits { s with pc := a } := State.pcFits_of_hasLong hwf hlong
  rw [State.setPc, cutPc_of_lt hfits]

/-- What both conditional jumps do: a jump in the 256-byte page on a condition, or nothing. -/
theorem jumpPage8_or_stay (a : Byte) (hpc : s.PcFits) (c : Prop) [Decidable c] :
    (if c then s.jumpPage8 a else s) =
        { s with pc := (if c then s.jumpPage8 a else s).pc } ∧
      (if c then s.jumpPage8 a else s).pc.toNat =
        if c then s.pc.toNat / 256 * 256 + a.toNat else s.pc.toNat := by
  split
  · exact ⟨rfl, State.jumpPage8_pc_toNat a hpc⟩
  · exact ⟨rfl, rfl⟩

theorem exec_jf (f : FlagName) (a : Byte) (s : State) :
    exec (.jf f a) s = .next (if s.flag f = false then s.jumpPage8 a else s) := by
  cases hflag : s.flag f <;> simp [exec, execJf, hflag]

theorem exec_jt (f : FlagName) (a : Byte) (s : State) :
    exec (.jt f a) s = .next (if s.flag f = true then s.jumpPage8 a else s) := rfl

/-- In the page of an address, its low ten bits lead back to it; a 10-bit PC has one page. -/
theorem cutPc_page10_append_low {w : PcWidth} {next pc : ProgAddr}
    (hpc : pc.toNat < 2 ^ w.bits)
    (hpage : w = .bits16 → next.extractLsb' 10 6 = pc.extractLsb' 10 6) :
    cutPc w (next.extractLsb' 10 6 ++ pc.extractLsb' 0 10) = pc := by
  cases w with
  | bits10 =>
    have hlow : (pc.extractLsb' 0 10).toNat = pc.toNat := by
      rw [BitVec.extractLsb'_toNat]
      exact Nat.mod_eq_of_lt hpc
    rw [← BitVec.toNat_inj, cutPc_toNat, toNat_page10_append, hlow]
    simp only [PcWidth.bits] at *
    omega
  | bits16 => rw [hpage rfl, BitVec.extractLsb'_append_extractLsb']; rfl

end

/-- Settles O17: the two bytes decode to the JMP (O1), so the step is that JMP (O5), and its target
is the address the PC had before the fetch. -/
theorem selfJumpIsFinished : Obligations.SelfJumpIsFinished := by
  intro s hpc hwaiting hfirst hsecond hbytes hpage
  have hcode : s.codeBytes = encode (.jmp (s.pc.extractLsb' 0 10)) ++
      [s.prog.read (s.pcAt 2).toNat] := by rw [← hbytes]; rfl
  have hdecode := decodeOfEncode s.build.hasLong (.jmp (s.pc.extractLsb' 0 10))
    [s.prog.read (s.pcAt 2).toNat] rfl
  have hstep := stepRunsDecodedInstruction s _ _ hwaiting (hcode ▸ hdecode) fun k hk => by
    match k, hk with
    | 0, _ => exact hfirst
    | 1, _ => exact hsecond
  have htarget := cutPc_page10_append_low hpc hpage
  calc step s = .next { s with
          pc := cutPc s.build.pcWidth
            ((s.pcAt 2).extractLsb' 10 6 ++ s.pc.extractLsb' 0 10) } := hstep
    _ = .next s := by rw [htarget]

/-- Settles O37: the jump writes the PC alone, and the value is read as a number in each width. -/
theorem jmpLoadsTenBits : Obligations.JmpLoadsTenBits := fun a _ =>
  ⟨rfl, _, rfl, rfl, State.jumpPage10_pc_toNat_bits10 a, State.jumpPage10_pc_toNat_bits16 a⟩

/-- Settles O38: the two branches of LJMP; where the build has it, the PC is not cut. -/
theorem ljmpLoadsSixteenBits : Obligations.LjmpLoadsSixteenBits := by
  intro a s hwf
  refine ⟨fun hlong => ?has, fun hlong => ?hasNot⟩
  case has =>
    rw [← State.setPc_of_hasLong hwf hlong]
    exact execLjmp_eq_next.2 ⟨hlong, rfl⟩
  case hasNot => simp [exec, execLjmp, hlong]

/-- Settles O39: JF and JT are the same conditional jump, on the flag at 0 and on the flag at 1. -/
theorem conditionalJumpsTestOneFlag : Obligations.ConditionalJumpsTestOneFlag :=
  fun f a s hpc => ⟨rfl, rfl, ⟨_, exec_jf f a s, jumpPage8_or_stay a hpc _⟩,
    ⟨_, exec_jt f a s, jumpPage8_or_stay a hpc _⟩⟩

section
variable {s : State}

/-! ### The return address on the stack -/

theorem State.pcLow_toNat (s : State) : s.pcLow.toNat = s.pc.toNat % 256 := by
  rw [State.pcLow, BitVec.extractLsb'_toNat, Nat.shiftRight_zero]

theorem State.pcHigh_toNat (hpc : s.PcFits) : s.pcHigh.toNat = s.pc.toNat / 256 := by
  unfold State.PcFits at hpc
  unfold State.pcHigh
  split <;> next hw =>
    rw [hw, PcWidth.bits] at hpc
    simp only [toNat_append_eq_mul_add, BitVec.extractLsb'_toNat, BitVec.toNat_ofNat,
      Nat.shiftRight_eq_div_pow]
    omega

/-- The two bytes pushed are the whole PC. -/
theorem State.pcHigh_append_pcLow (hpc : s.PcFits) : s.pcHigh ++ s.pcLow = s.pc := by
  rw [← BitVec.toNat_inj, toNat_append_eq_mul_add, State.pcHigh_toNat hpc, State.pcLow_toNat]
  exact Nat.div_add_mod' s.pc.toNat 256

/-- The state with the PC pushed as a return address, low byte first (20_memory.md R64). -/
def State.withPcPushed (s : State) : State :=
  { s with
    sp := s.sp + 2
    ram := (s.ram.write (s.sp + 1).toNat s.pcLow).write (s.sp + 2).toNat s.pcHigh }

/-- The push of a return address as one update: SP is raised twice by 1, which is by 2. -/
theorem State.pushPc_eq_ok_withPcPushed {t : State} :
    s.pushPc = .ok t ↔ (s.sp + 1).toNat < s.build.ramSize ∧
      (s.sp + 2).toNat < s.build.ramSize ∧ t = s.withPcPushed := by
  have hadd : s.sp + 1 + 1 = s.sp + 2 := BitVec.add_assoc s.sp 1 1
  rw [State.pushPc_eq_ok, hadd, State.withPcPushed]

theorem State.ramByte_withPcPushed (hwf : s.ram.wf) (c : Byte) :
    s.withPcPushed.ramByte c =
      if c = s.sp + 2 then s.pcHigh else if c = s.sp + 1 then s.pcLow else s.ramByte c := by
  have hfirst := Memory.wf_write (s.sp + 1).toNat s.pcLow hwf
  simp only [State.withPcPushed, State.ramByte, Memory.read_write _ _ _ _ hfirst.1,
    Memory.read_write _ _ _ _ hwf.1, BitVec.toNat_inj]

theorem State.ramByte_withPcPushed_high (hwf : s.ram.wf) :
    s.withPcPushed.ramByte (s.sp + 2) = s.pcHigh := by
  rw [State.ramByte_withPcPushed hwf, if_pos rfl]

theorem State.ramByte_withPcPushed_low (hwf : s.ram.wf) :
    s.withPcPushed.ramByte (s.sp + 1) = s.pcLow := by
  have hne : s.sp + 1 ≠ s.sp + 2 := fun h => absurd (add_left_cancel h) (by decide)
  rw [State.ramByte_withPcPushed hwf, if_neg hne, if_pos rfl]

theorem State.keepsRam_withPcPushed (hwf : s.ram.wf) :
    KeepsRam s s.withPcPushed [s.sp + 1, s.sp + 2] := by
  intro c hc
  obtain ⟨hlow, hhigh⟩ : c ≠ s.sp + 1 ∧ c ≠ s.sp + 2 := by simpa using hc
  rw [State.ramByte_withPcPushed hwf, if_neg hhigh, if_neg hlow]

theorem State.reg_withPcPushed (s : State) (r : Reg) : s.withPcPushed.reg r = s.reg r := by
  cases r <;> rfl

/-! ### The calls and RET -/

theorem exec_call_of_inside (a : BitVec 10) (hlow : (s.sp + 1).toNat < s.build.ramSize)
    (hhigh : (s.sp + 2).toNat < s.build.ramSize) :
    exec (.call a) s = .next (s.withPcPushed.jumpPage10 a) :=
  execCall_eq_next.2 ⟨_, State.pushPc_eq_ok_withPcPushed.2 ⟨hlow, hhigh, rfl⟩, rfl⟩

theorem exec_lcall_of_inside (a : BitVec 16) (hlong : s.build.hasLong = true)
    (hlow : (s.sp + 1).toNat < s.build.ramSize) (hhigh : (s.sp + 2).toNat < s.build.ramSize) :
    exec (.lcall a) s = .next (s.withPcPushed.setPc a) :=
  execLcall_eq_next.2 ⟨hlong, _, State.pushPc_eq_ok_withPcPushed.2 ⟨hlow, hhigh, rfl⟩, rfl⟩

/-- The two bytes of the return address, as both calls leave them (R155, R156). -/
theorem returnAddress_bytes (hwf : s.ram.wf) (hpc : s.PcFits) :
    (s.withPcPushed.ramByte (s.sp + 1)).toNat = s.pc.toNat % 256 ∧
      (s.withPcPushed.ramByte (s.sp + 2)).toNat = s.pc.toNat / 256 := by
  rw [State.ramByte_withPcPushed_low hwf, State.ramByte_withPcPushed_high hwf]
  exact ⟨s.pcLow_toNat, State.pcHigh_toNat hpc⟩

/-- RET pops the high byte and then the low byte; SP is lowered twice by 1, which is by 2 (R157). -/
theorem exec_ret_of_inside (hhigh : s.sp.toNat < s.build.ramSize)
    (hlow : (s.sp - 1).toNat < s.build.ramSize) :
    exec .ret s =
      .next ((s.setSp (s.sp - 2)).setPc (s.ramByte s.sp ++ s.ramByte (s.sp - 1))) := by
  have hsub : s.sp - 1 - 1 = s.sp - 2 := BitVec.sub_sub s.sp 1 1
  rw [← hsub]
  exact execRet_eq_next.2 ⟨_, _, _, _, State.popByte_eq_ok.2 ⟨hhigh, rfl, rfl⟩,
    State.popByte_eq_ok.2 ⟨hlow, rfl, rfl⟩, rfl⟩

/-- RET pops what the push of a return address left, wherever the RET stands. -/
theorem exec_ret_withPcPushed (hwf : s.ram.wf) (hpc : s.PcFits)
    (hlow : (s.sp + 1).toNat < s.build.ramSize) (hhigh : (s.sp + 2).toNat < s.build.ramSize)
    (p : ProgAddr) :
    exec .ret { s.withPcPushed with pc := p } = .next { s with ram := s.withPcPushed.ram } := by
  have hbelow : s.sp + 2 - 1 = s.sp + 1 := by bv_omega
  have hsp : s.sp + 2 - 2 = s.sp := BitVec.add_sub_cancel s.sp 2
  have haddress : s.withPcPushed.ramByte (s.sp + 2) ++ s.withPcPushed.ramByte (s.sp + 2 - 1) =
      s.pc := by
    rw [hbelow, State.ramByte_withPcPushed_high hwf, State.ramByte_withPcPushed_low hwf,
      State.pcHigh_append_pcLow hpc]
  have hret := exec_ret_of_inside (s := { s.withPcPushed with pc := p }) hhigh
    (show (s.sp + 2 - 1).toNat < s.build.ramSize from hbelow ▸ hlow)
  calc exec .ret { s.withPcPushed with pc := p }
      = .next { s with
          sp := s.sp + 2 - 2
          ram := s.withPcPushed.ram
          pc := cutPc s.build.pcWidth (s.withPcPushed.ramByte (s.sp + 2) ++
            s.withPcPushed.ramByte (s.sp + 2 - 1)) } := hret
    _ = .next { s with ram := s.withPcPushed.ram } := by rw [haddress, cutPc_of_lt hpc, hsp]

/-- A call that completes leaves the state with the return address pushed, but for its PC. -/
theorem exec_calls_next {t : State}
    (h : (∃ a, exec (.call a) s = .next t) ∨ ∃ a, exec (.lcall a) s = .next t) :
    (s.sp + 1).toNat < s.build.ramSize ∧ (s.sp + 2).toNat < s.build.ramSize ∧
      t = { s.withPcPushed with pc := t.pc } := by
  have hpushed : ∃ s1, s.pushPc = .ok s1 ∧ t = { s1 with pc := t.pc } := by
    rcases h with ⟨a, h⟩ | ⟨a, h⟩
    · obtain ⟨s1, hpush, rfl⟩ := execCall_eq_next.1 h
      exact ⟨s1, hpush, rfl⟩
    · obtain ⟨-, s1, hpush, rfl⟩ := execLcall_eq_next.1 h
      exact ⟨s1, hpush, rfl⟩
  obtain ⟨s1, hpush, ht⟩ := hpushed
  obtain ⟨hlow, hhigh, rfl⟩ := State.pushPc_eq_ok_withPcPushed.1 hpush
  exact ⟨hlow, hhigh, ht⟩

end

/-- Settles O40: CALL is the push of the return address and then the jump of a JMP, which writes the
PC alone. -/
theorem callPushesReturnAddress : Obligations.CallPushesReturnAddress := by
  intro a s hwf hpc hlow hhigh
  obtain ⟨hlowByte, hhighByte⟩ := returnAddress_bytes hwf hpc
  exact ⟨_, exec_call_of_inside a hlow hhigh, rfl, hlowByte, hhighByte,
    State.keepsRam_withPcPushed hwf, State.jumpPage10_pc_toNat_bits10 a,
    State.jumpPage10_pc_toNat_bits16 a,
    fun r _ => (State.jumpPage10_reg _ a r).trans (s.reg_withPcPushed r), rfl, .refl s, .refl s⟩

/-- Settles O41: LCALL is the push of the return address and then the jump of an LJMP. -/
theorem lcallPushesReturnAddress : Obligations.LcallPushesReturnAddress := by
  intro a s hbuild hwf
  refine ⟨fun hlong hlow hhigh => ?has, fun hlong => ?hasNot⟩
  case has =>
    obtain ⟨hlowByte, hhighByte⟩ :=
      returnAddress_bytes hwf (State.pcFits_of_hasLong hbuild hlong)
    have hpc : (s.withPcPushed.setPc a).pc = a :=
      congrArg State.pc (State.setPc_of_hasLong (s := s.withPcPushed) hbuild hlong a)
    exact ⟨_, exec_lcall_of_inside a hlong hlow hhigh, rfl, hlowByte, hhighByte,
      State.keepsRam_withPcPushed hwf, hpc,
      fun r _ => (State.setPc_reg _ a r).trans (s.reg_withPcPushed r), rfl, .refl s, .refl s⟩
  case hasNot => simp [exec, execLcall, hlong]

/-- Settles O42: the PC that RET loads, read as a number. -/
theorem retLoadsPcFromStack : Obligations.RetLoadsPcFromStack := by
  intro s hhigh hlow
  refine ⟨_, exec_ret_of_inside hhigh hlow, rfl, ?_⟩
  rw [State.setPc_pc, cutPc_toNat, toNat_append_eq_mul_add]
  rfl

/-- Settles O43: either call leaves the return address pushed, and RET pops it again. -/
theorem retUndoesCall : Obligations.RetUndoesCall := by
  intro s t p hwf hpc hcall
  obtain ⟨hlow, hhigh, ht⟩ := exec_calls_next hcall
  rw [ht]
  exact exec_ret_withPcPushed hwf hpc hlow hhigh p

end Sys2Proof.Machine

namespace Sys2Proof.Machine

/-! ## PUSH and POP -/

/-- POP's load reads RAM where SP points, which the lowering of SP and the write of Rd leave alone
(R166). -/
theorem exec_pop_of_inside {s : State} (rd : Reg) (hin : s.sp.toNat < s.build.ramSize) :
    exec (.pop rd) s = .next ((s.setSp (s.sp - 1)).setReg rd (s.ramByte s.sp)) :=
  finish_eq_next.2 (moveInto_eq_ok.2 ⟨_, _, State.popByte_eq_ok.2 ⟨hin, rfl, rfl⟩, rfl⟩)

/-- Settles O44: SP is raised first, and a store to RAM at the new SP then changes the one byte. -/
theorem pushStoresRegister : Obligations.PushStoresRegister := by
  intro rs s hwf hin
  obtain ⟨t, hstore, hbyte, hram, hregs, hpsw, hsp, hpc, hconstants, henv⟩ :=
    State.memWrite_changes_one_byte (s := s.setSp (s.sp + 1)) (s.reg rs) hwf hin
  exact ⟨t, finish_eq_next.2 hstore, hsp, hbyte, hram,
    fun r hr => (hregs r hr).trans (s.setSp_reg _ r), hpsw, hpc, hconstants, henv⟩

/-- Settles O45: SP is lowered and Rd is written, each of which leaves all else. -/
theorem popLoadsRegister : Obligations.PopLoadsRegister := by
  intro rd s hin
  have hexec := exec_pop_of_inside rd hin
  refine ⟨_, hexec, State.reg_setReg_same _ rd _, exec_pop_sp hexec,
    onlyDestinationRegisterChanges _ _ _ hexec, fun a _ => State.setReg_ramByte _ rd _ a,
    State.setReg_psw _ rd _, State.setReg_pc _ rd _, ?constants, ?env⟩
  case constants => simp [KeepsConstants]
  case env => simp [KeepsEnv]

/-- Settles O46: after the PUSH, SP points at the byte it stored, which the build has, so the POP
loads that byte and lowers SP to where it was. -/
theorem popUndoesPush : Obligations.PopUndoesPush := by
  intro rs rd s t hwf hpush
  obtain ⟨hin, ht⟩ := State.pushByte_eq_ok.1 (finish_eq_next.1 hpush)
  have hpop := exec_pop_of_inside (s := t) rd (by rw [ht]; exact hin)
  refine ⟨_, hpop, ?loaded, ?sp, fun r hr => ?regs, ?psw, State.setReg_ram _ rd _⟩
  case loaded =>
    rw [State.reg_setReg_same, ht]
    exact (State.ramByte_write (s.setSp (s.sp + 1)) (s.sp + 1) _ _ hwf).trans (if_pos rfl)
  case sp =>
    rw [exec_pop_sp hpop, exec_push_sp hpush]
    exact BitVec.add_sub_cancel s.sp 1
  case regs =>
    exact (onlyDestinationRegisterChanges _ _ _ hpop r hr).trans
      (onlyDestinationRegisterChanges _ _ _ hpush r List.not_mem_nil)
  case psw => rw [State.setReg_psw, State.setSp_psw, ht]

end Sys2Proof.Machine

namespace Sys2Proof.Machine

/-! ## INC, DEC, SRL, SRA, RRC and CPL of a register -/

/-! ### Writing a register and the flags

A write of what is there already changes nothing, of two writes the second counts, and registers and
flags are apart. -/

theorem putBit_self (w : Byte) (f : FlagName) :
    putBit w (flagPos f) (w.getLsbD (flagPos f)) = w := by
  have hf := flagPos_lt f
  apply BitVec.eq_of_getLsbD_eq
  intro n _
  rw [getLsbD_putBit _ _ _ _ (by omega)]
  split_ifs with h
  · rw [h]
  · rfl

theorem putBit_putBit (w : Byte) (f : FlagName) (b c : Bool) :
    putBit (putBit w (flagPos f) b) (flagPos f) c = putBit w (flagPos f) c := by
  have hf := flagPos_lt f
  apply BitVec.eq_of_getLsbD_eq
  intro n _
  simp only [getLsbD_putBit _ _ _ _ (show flagPos f < 8 by omega)]
  split_ifs <;> rfl

theorem State.setFlag_self (s : State) (f : FlagName) : s.setFlag f (s.flag f) = s :=
  congrArg s.setPsw (putBit_self s.psw f)

theorem State.setFlag_setFlag (s : State) (f : FlagName) (b c : Bool) :
    (s.setFlag f b).setFlag f c = s.setFlag f c :=
  congrArg s.setPsw (putBit_putBit s.psw f b c)

theorem State.setReg_self (s : State) (r : Reg) : s.setReg r (s.reg r) = s := by
  cases r <;> rfl

theorem State.setReg_setReg (s : State) (r : Reg) (v w : Byte) :
    (s.setReg r v).setReg r w = s.setReg r w := by
  cases r <;> rfl

theorem State.setReg_setFlag (s : State) (r : Reg) (v : Byte) (f : FlagName) (b : Bool) :
    (s.setFlag f b).setReg r v = (s.setReg r v).setFlag f b := by
  cases r <;> rfl

/-! ### The frame -/

/-- The part of the frame that all six share: all but the work registers and the PSW is kept. -/
def KeepsAllButRegsAndPsw (s t : State) : Prop :=
  t.sp = s.sp ∧ t.pc = s.pc ∧ KeepsRam s t [] ∧ KeepsConstants s t ∧ KeepsEnv s t

theorem State.setReg_keepsAllButRegsAndPsw (s : State) (r : Reg) (v : Byte) :
    KeepsAllButRegsAndPsw s (s.setReg r v) := by
  refine ⟨s.setReg_sp r v, s.setReg_pc r v, fun a _ => s.setReg_ramByte r v a, ?constants, ?env⟩
  case constants => exact ⟨s.setReg_build r v, s.setReg_prog r v, s.setReg_waiting r v⟩
  case env =>
    exact ⟨s.setReg_trace r v, s.setReg_ioAnswers r v, s.setReg_testAnswers r v,
      s.setReg_samples r v⟩

/-- A flag is part of the PSW. -/
theorem KeepsAllButRegsAndPsw.setFlag {s t : State} (h : KeepsAllButRegsAndPsw s t) (f : FlagName)
    (b : Bool) : KeepsAllButRegsAndPsw s (t.setFlag f b) := h

theorem State.putZ_keepsAllButRegsAndPsw (s : State) (rd : Reg) (v : Byte) :
    KeepsAllButRegsAndPsw s (s.putZ rd v) :=
  (s.setReg_keepsAllButRegsAndPsw rd v).setFlag .z _

theorem State.shiftRight_keepsAllButRegsAndPsw (s : State) (rd : Reg) (top : Bool) :
    KeepsAllButRegsAndPsw s (s.shiftRight rd top) :=
  (s.setReg_keepsAllButRegsAndPsw rd _).setFlag .c _

/-- `State.putZ_spec` with Z read off the register, and the rest of the frame. -/
theorem State.putZ_effect (s : State) (rd : Reg) (v : Byte) :
    (s.putZ rd v).reg rd = v ∧ ((s.putZ rd v).flag .z = true ↔ (s.putZ rd v).reg rd = 0) ∧
      KeepsFlags s (s.putZ rd v) [.z] ∧ KeepsRegs s (s.putZ rd v) [rd] ∧
      KeepsAllButRegsAndPsw s (s.putZ rd v) := by
  obtain ⟨hvalue, hz, hflags, hregs⟩ := s.putZ_spec rd v
  exact ⟨hvalue, hvalue.symm ▸ hz, hflags, hregs, s.putZ_keepsAllButRegsAndPsw rd v⟩

/-- `State.shiftRight_spec` with the rest of the frame. -/
theorem State.shiftRight_effect (s : State) (rd : Reg) (top : Bool) :
    (s.shiftRight rd top).reg rd = shiftRightIn top (s.reg rd) ∧
      (s.shiftRight rd top).flag .c = (s.reg rd).getLsbD 0 ∧
      KeepsFlags s (s.shiftRight rd top) [.c] ∧ KeepsRegs s (s.shiftRight rd top) [rd] ∧
      KeepsAllButRegsAndPsw s (s.shiftRight rd top) := by
  obtain ⟨hvalue, hc, hflags, hregs⟩ := s.shiftRight_spec rd top
  exact ⟨hvalue, hc, hflags, hregs, s.shiftRight_keepsAllButRegsAndPsw rd top⟩

/-! ### Shifts as halvings -/

/-- With 0 into bit 7, a shift halves the unsigned value (44_unary.md R172). -/
theorem shiftRightIn_false_toNat (a : Byte) : (shiftRightIn false a).toNat = a.toNat / 2 :=
  shiftRightIn_toNat false a

theorem getLsbD_seven_shiftRightIn (top : Bool) (a : Byte) :
    (shiftRightIn top a).getLsbD 7 = top := getLsbD_shiftRightIn top a 7

/-- With the sign into bit 7, a shift halves the signed value: a negative byte stands for its number
less 256, so half of that is half the number, less 256, plus the 128 of the new bit 7 (44_unary.md
R173). -/
theorem shiftRightIn_msb_toInt (a : Byte) :
    (shiftRightIn a.msb a).toInt = a.toInt.fdiv 2 := by
  have ha := a.isLt
  rw [Int.fdiv_eq_ediv_of_nonneg _ (by decide), BitVec.toInt_eq_toNat_cond,
    BitVec.toInt_eq_toNat_cond, shiftRightIn_toNat, BitVec.msb_eq_decide]
  simp only [decide_eq_true_eq]
  split_ifs <;> omega

/-! ### The carry and a register as a ring of nine bits (44_unary.md R174) -/

/-- The nine bits that RRC rotates: the carry above the register's eight. -/
def State.carryReg (s : State) (rd : Reg) : BitVec 9 := BitVec.ofBool (s.flag .c) ++ s.reg rd

/-- The nine bits written back: the upper one to the carry, the others to the register. -/
def State.setCarryReg (s : State) (rd : Reg) (w : BitVec 9) : State :=
  (s.setReg rd (w.setWidth 8)).setFlag .c w.msb

theorem State.setCarryReg_carryReg (s : State) (rd : Reg) :
    s.setCarryReg rd (s.carryReg rd) = s := by
  have hreg : (s.carryReg rd).setWidth 8 = s.reg rd := by
    rw [State.carryReg, BitVec.setWidth_append, dif_pos le_rfl, BitVec.setWidth_eq]
  have hcarry : (s.carryReg rd).msb = s.flag .c :=
    BitVec.msb_append.trans (by simp)
  rw [State.setCarryReg, hreg, hcarry, State.setReg_self, State.setFlag_self]

/-- A bit of a rotated ring comes from `r` places above it, counted round from bit 8 to bit 0. -/
theorem getLsbD_rotateRight_nine (w : BitVec 9) (r n : Nat) (hn : n < 9) :
    (w.rotateRight r).getLsbD n = w.getLsbD ((n + r) % 9) := by
  rw [BitVec.getLsbD_rotateRight]
  by_cases h : n < 9 - r % 9
  · rw [decide_eq_true h, cond_true, show r % 9 + n = (n + r) % 9 by omega]
  · rw [decide_eq_false h, decide_eq_true hn, cond_false, Bool.true_and,
      show n - (9 - r % 9) = (n + r) % 9 by omega]

theorem rotateRight_rotateRight_nine (w : BitVec 9) (q r : Nat) :
    (w.rotateRight q).rotateRight r = w.rotateRight (q + r) := by
  apply BitVec.eq_of_getLsbD_eq
  intro n hn
  rw [getLsbD_rotateRight_nine _ _ _ hn, getLsbD_rotateRight_nine _ _ _ (by omega),
    getLsbD_rotateRight_nine _ _ _ hn]
  congr 1
  omega

/-- Full turns of the ring of nine bits change nothing. -/
theorem rotateRight_nine_of_mod_eq_zero (w : BitVec 9) {r : Nat} (hr : r % 9 = 0) :
    w.rotateRight r = w := by
  apply BitVec.eq_of_getLsbD_eq
  intro n hn
  rw [getLsbD_rotateRight_nine w r n hn]
  congr 1
  omega

/-- Shifting the register with the old carry on top is the register's part of a rotation. -/
theorem shiftRightIn_msb_setWidth (w : BitVec 9) :
    shiftRightIn w.msb (w.setWidth 8) = (w.rotateRight 1).setWidth 8 := by
  apply BitVec.eq_of_getLsbD_eq
  intro n hn
  rw [getLsbD_shiftRightIn, BitVec.getLsbD_setWidth, BitVec.getLsbD_setWidth,
    getLsbD_rotateRight_nine w 1 n (by omega)]
  by_cases h : n < 7
  · simp [h, hn, show (n + 1) % 9 = n + 1 by omega, show n + 1 < 8 by omega]
  · obtain rfl : n = 7 := by omega
    simp [BitVec.msb_eq_getLsbD_last]

theorem msb_rotateRight_one (w : BitVec 9) :
    (w.rotateRight 1).msb = (w.setWidth 8).getLsbD 0 := by
  rw [BitVec.msb_eq_getLsbD_last, getLsbD_rotateRight_nine w 1 8 (by decide),
    BitVec.getLsbD_setWidth]
  rfl

/-- RRC rotates the ring by one place. -/
theorem exec_rrc_setCarryReg (s : State) (rd : Reg) (w : BitVec 9) :
    exec (.rrc rd) (s.setCarryReg rd w) = .next (s.setCarryReg rd (w.rotateRight 1)) := by
  have hreg : (s.setCarryReg rd w).reg rd = w.setWidth 8 := by
    rw [State.setCarryReg, State.setFlag_reg, State.reg_setReg_same]
  have hcarry : (s.setCarryReg rd w).flag .c = w.msb := State.flag_setFlag_same _ _ _
  refine congrArg Host.Outcome.next ?_
  rw [State.shiftRight, hcarry, hreg, shiftRightIn_msb_setWidth, ← msb_rotateRight_one,
    State.setCarryReg, State.setReg_setFlag, State.setReg_setReg, State.setFlag_setFlag,
    State.setCarryReg]

theorem execTimes_rrc_setCarryReg (rd : Reg) (n : Nat) (s : State) (w : BitVec 9) :
    execTimes (.rrc rd) n (s.setCarryReg rd w) = .next (s.setCarryReg rd (w.rotateRight n)) := by
  induction n generalizing w with
  | zero => rw [rotateRight_nine_of_mod_eq_zero w rfl, execTimes]
  | succ n ih =>
    rw [execTimes, exec_rrc_setCarryReg, ← Nat.add_comm 1 n, ← rotateRight_rotateRight_nine]
    exact ih _

/-! ### The statements -/

/-- Settles O30: INC adds 1, and DEC subtracts 1, which adds 255 modulo 256. -/
theorem incDecStepRegister : Obligations.IncDecStepRegister := by
  intro rd s
  obtain ⟨hinc, hincFrame⟩ := s.putZ_effect rd (s.reg rd + 1)
  obtain ⟨hdec, hdecFrame⟩ := s.putZ_effect rd (s.reg rd - 1)
  refine ⟨⟨_, rfl, ?inc, hincFrame⟩, _, rfl, ?dec, hdecFrame⟩
  case inc => rw [hinc]; exact BitVec.toNat_add ..
  case dec => rw [hdec, BitVec.toNat_sub, Nat.add_comm]; rfl

/-- Settles O31: SRL shifts a 0 into bit 7. -/
theorem srlHalvesUnsigned : Obligations.SrlHalvesUnsigned := by
  intro rd s
  obtain ⟨hvalue, hframe⟩ := s.shiftRight_effect rd false
  exact ⟨rfl, _, rfl, by rw [hvalue, shiftRightIn_false_toNat], hframe⟩

/-- Settles O32: SRA shifts the sign into bit 7. -/
theorem sraHalvesSigned : Obligations.SraHalvesSigned := by
  intro rd s
  obtain ⟨hvalue, hframe⟩ := s.shiftRight_effect rd (s.reg rd).msb
  refine ⟨rfl, _, rfl, ?half, ?sign, hframe⟩
  case half => rw [hvalue, shiftRightIn_msb_toInt]
  case sign => rw [hvalue, getLsbD_seven_shiftRightIn, msb_eq_bit7]

/-- Settles O33: RRC shifts the old carry into bit 7. -/
theorem rrcRotatesThroughCarry : Obligations.RrcRotatesThroughCarry := by
  intro rd s
  obtain ⟨hvalue, hframe⟩ := s.shiftRight_effect rd (s.flag .c)
  refine ⟨rfl, _, rfl, fun n hn => ?down, ?top, hframe⟩
  case down => rw [hvalue, getLsbD_shiftRightIn, if_pos hn]
  case top => rw [hvalue, getLsbD_seven_shiftRightIn]

/-- Settles O34: nine rotations of the ring of nine bits leave it as it was. -/
theorem nineRrcsRestoreState : Obligations.NineRrcsRestoreState := by
  intro rd s
  calc execTimes (.rrc rd) 9 s
      = execTimes (.rrc rd) 9 (s.setCarryReg rd (s.carryReg rd)) := by
        rw [State.setCarryReg_carryReg]
    _ = .next (s.setCarryReg rd ((s.carryReg rd).rotateRight 9)) :=
        execTimes_rrc_setCarryReg rd 9 s _
    _ = .next s := by
        rw [rotateRight_nine_of_mod_eq_zero _ rfl, State.setCarryReg_carryReg]

/-- Settles O35: CPL is a write of Rd alone, and a complement is the distance from 255. -/
theorem cplComplementsRegister : Obligations.CplComplementsRegister := by
  intro rd s
  refine ⟨rfl, s.setReg rd (~~~ s.reg rd), rfl, ?value, fun r hr => ?regs, s.setReg_psw rd _,
    s.setReg_keepsAllButRegsAndPsw rd _⟩
  case value => rw [State.reg_setReg_same]; exact BitVec.toNat_not
  case regs => exact s.reg_setReg_ne rd r _ (List.ne_of_not_mem_cons hr)

end Sys2Proof.Machine

namespace Sys2Proof.Machine

/-! ## CLR, SETB and CPL of a flag -/

/-- Writing a flag keeps the three others and PSW bits 4..7 (00_scope.md R13, 10_state.md R26). -/
theorem State.setFlag_keepsFlags (s : State) (f : FlagName) (b : Bool) :
    KeepsFlags s (s.setFlag f b) [f] :=
  ⟨fun g hg => s.flag_setFlag_ne f g b (List.ne_of_not_mem_cons hg), s.setFlag_highBits f b⟩

/-- What an operation whose meaning is the write of one flag does and leaves; outside the PSW it
leaves everything. -/
theorem State.setFlag_effect (s : State) (f : FlagName) (b : Bool) :
    (s.setFlag f b).flag f = b ∧ KeepsFlags s (s.setFlag f b) [f] ∧
      s.setFlag f b = { s with psw := (s.setFlag f b).psw } :=
  ⟨s.flag_setFlag_same f b, s.setFlag_keepsFlags f b, rfl⟩

/-- Settles O36: CLR writes 0 to the flag, SETB writes 1, and CPL the complement of the old flag. -/
theorem flagOperationsWriteOneFlag : Obligations.FlagOperationsWriteOneFlag := by
  intro f s
  refine ⟨rfl, rfl, rfl, ⟨_, rfl, ?clr⟩, ⟨_, rfl, ?setb⟩, _, rfl, ?cpl⟩
  case clr => exact s.setFlag_effect f false
  case setb => exact s.setFlag_effect f true
  case cpl => exact s.setFlag_effect f (!s.flag f)

end Sys2Proof.Machine

namespace Sys2Proof.Machine

/-! ## WAIT -/

/-- The step of a held processor is one more sampling (46_wait.md R187). -/
theorem step_of_waiting {s : State} {p : TestPin} (hheld : s.waiting = some p) :
    step s = .next (s.sampleWait p) :=
  step_eq_next.2 (.inl ⟨p, hheld, rfl⟩)

theorem run_succ_of_step {M : Host.Core} {s t : M.State} (k : Nat) (h : M.step s = .next t) :
    M.run (k + 1) s = M.run k t := by
  rw [Host.Core.run, h]

theorem State.testAnswer_of_cons {s : State} {b : Bool} {later : List Bool} (p : TestPin)
    (h : s.testAnswers = b :: later) : s.testAnswer p = b := by
  rw [State.testAnswer, h]

/-- A held processor that finds 0 uses up that answer and stays held. -/
theorem step_of_waiting_zero {s : State} {p : TestPin} {later : List Bool}
    (hheld : s.waiting = some p) (h : s.testAnswers = false :: later) :
    step s = .next { s with testAnswers := later, samples := s.samples + 1 } := by
  rw [step_of_waiting hheld]
  simp [State.sampleWait, State.testAnswer_of_cons p h, h, hheld]

/-- A held processor that finds 1 uses up that answer and completes the WAIT. -/
theorem step_of_waiting_one {s : State} {p : TestPin} {later : List Bool}
    (hheld : s.waiting = some p) (h : s.testAnswers = true :: later) :
    step s =
      .next { s with waiting := none, testAnswers := later, samples := s.samples + 1 } := by
  rw [step_of_waiting hheld]
  simp [State.sampleWait, State.testAnswer_of_cons p h, h]

/-- Settles O6: the step is a sampling, and these are the fields a sampling writes. -/
theorem heldStepSamplesAgain : Obligations.HeldStepSamplesAgain :=
  fun _ _ hheld => step_of_waiting hheld

/-- Settles O7, by induction on the number of zeros: each leaves a held processor with one answer
fewer, and the 1 completes the WAIT. -/
theorem heldUntilInputIsOne : Obligations.HeldUntilInputIsOne := by
  intro n
  induction n with
  | zero =>
    intro s p later hheld hanswers
    exact run_succ_of_step 0 (step_of_waiting_one hheld hanswers)
  | succ n ih =>
    intro s p later hheld hanswers
    have hstep := step_of_waiting_zero hheld hanswers
    have hrest := ih { s with
      testAnswers := List.replicate n false ++ true :: later, samples := s.samples + 1 }
      p later hheld rfl
    have hsamples : s.samples + 1 + (n + 1) = s.samples + (n + 1 + 1) := by omega
    rw [← hsamples]
    exact (run_succ_of_step (M := core) (n + 1) hstep).trans hrest

/-- Settles O47: WAIT is one sampling, and these are the fields a sampling writes. -/
theorem waitSamplesItsInput : Obligations.WaitSamplesItsInput :=
  fun _ _ => rfl

end Sys2Proof.Machine

namespace Sys2Proof.Machine

/-! ## When an instruction stops the model -/

/-- The faults that instruction `i` raises when it is executed in `s`: the rows of 60_exceptions.md
R193 but the first, which is the fetch's. -/
def Fault.Stops (s : State) (i : Instr) : Fault → Prop
  | .fetchOutsideProgram _ => False
  | .reservedOpcode b1 => isReserved i = true ∧ encode i = [b1]
  | .reservedDirect a => directAddress i = some a ∧ 0xF0 ≤ a.toNat ∧ a.toNat ≤ 0xFD
  | .outsideRam a =>
    (ramAccesses s i).find? (fun c => decide (s.build.ramSize ≤ c.toNat)) = some a

section
variable {s : State} {i : Instr} {f : Fault}

/-! ### `Fault.Stops` by the accesses that the instruction makes -/

theorem stops_iff_of_reserved {b1 : Byte} (hres : isReserved i = true) (hbytes : encode i = [b1]) :
    f.Stops s i ↔ f = .reservedOpcode b1 := by
  have hquiet : directAddress i = none ∧ ramAccesses s i = [] := by
    cases i with
    | reserved1000 | reserved100110 | reserved101001 | reserved101101 | reserved10111001
    | reserved1011101 | reserved101111 | reserved111011 | reserved111101 | reserved11111 =>
      exact ⟨rfl, rfl⟩
    | _ => cases hres
  obtain ⟨hdir, hram⟩ := hquiet
  cases f <;> simp [Fault.Stops, hres, hbytes, hdir, hram, eq_comm]

/-- An instruction without a direct address stops at the first missing byte of RAM alone. -/
theorem stops_iff_of_no_direct (hres : isReserved i = false) (hdir : directAddress i = none) :
    f.Stops s i ↔ ∃ a, f = .outsideRam a ∧
      (ramAccesses s i).find? (fun c => decide (s.build.ramSize ≤ c.toNat)) = some a := by
  cases f <;> simp [Fault.Stops, hres, hdir]

theorem not_stops_of_no_access (hres : isReserved i = false) (hdir : directAddress i = none)
    (hram : ramAccesses s i = []) : ¬ f.Stops s i := by
  simp [stops_iff_of_no_direct hres hdir, hram]

theorem stops_iff_of_one_access {a : Byte} (hres : isReserved i = false)
    (hdir : directAddress i = none) (hram : ramAccesses s i = [a]) :
    f.Stops s i ↔ s.build.ramSize ≤ a.toNat ∧ f = .outsideRam a := by
  rw [stops_iff_of_no_direct hres hdir, hram]
  by_cases ha : s.build.ramSize ≤ a.toNat <;> simp [ha]

theorem stops_iff_of_two_accesses {a b : Byte} (hres : isReserved i = false)
    (hdir : directAddress i = none) (hram : ramAccesses s i = [a, b]) :
    f.Stops s i ↔ (s.build.ramSize ≤ a.toNat ∧ f = .outsideRam a) ∨
      (a.toNat < s.build.ramSize ∧ s.build.ramSize ≤ b.toNat ∧ f = .outsideRam b) := by
  rw [stops_iff_of_no_direct hres hdir, hram]
  by_cases ha : s.build.ramSize ≤ a.toNat
  · simp [ha, Nat.not_lt.2 ha]
  · by_cases hb : s.build.ramSize ≤ b.toNat <;> simp [ha, hb, Nat.lt_of_not_le ha]

theorem stops_iff_of_direct {a : Byte} (hres : isReserved i = false)
    (hdir : directAddress i = some a)
    (hram : ramAccesses s i = if a.toNat ≤ 0xDF then [a] else []) :
    f.Stops s i ↔ (a.toNat ≤ 0xDF ∧ s.build.ramSize ≤ a.toNat ∧ f = .outsideRam a) ∨
      (0xF0 ≤ a.toNat ∧ a.toNat ≤ 0xFD ∧ f = .reservedDirect a) := by
  cases f with
  | fetchOutsideProgram | reservedOpcode => simp [Fault.Stops, hres]
  | reservedDirect c =>
    simp only [Fault.Stops, hdir, Option.some.injEq, Fault.reservedDirect.injEq, reduceCtorEq,
      and_false, false_or]
    constructor
    · rintro ⟨rfl, hlow, hhigh⟩; exact ⟨hlow, hhigh, rfl⟩
    · rintro ⟨hlow, hhigh, rfl⟩; exact ⟨rfl, hlow, hhigh⟩
  | outsideRam c =>
    by_cases ha : a.toNat ≤ 0xDF <;> by_cases hout : s.build.ramSize ≤ a.toNat <;>
      simp [Fault.Stops, hram, ha, hout, eq_comm]

/-! ### The operations that fault, in both directions -/

theorem State.dirRead_eq_error {a : Byte} :
    s.dirRead a = .error f ↔ (a.toNat ≤ 0xDF ∧ s.build.ramSize ≤ a.toNat ∧ f = .outsideRam a) ∨
      (0xF0 ≤ a.toNat ∧ a.toNat ≤ 0xFD ∧ f = .reservedDirect a) := by
  refine ⟨State.dirRead_error, ?_⟩
  rintro (⟨ha, hout, rfl⟩ | ⟨hlow, hhigh, rfl⟩)
  · exact (State.dir_outsideRam 0 hout ha).1
  · exact (s.dir_reserved 0 hlow hhigh).1

theorem State.dirWrite_eq_error {a v : Byte} :
    s.dirWrite a v = .error f ↔ (a.toNat ≤ 0xDF ∧ s.build.ramSize ≤ a.toNat ∧ f = .outsideRam a) ∨
      (0xF0 ≤ a.toNat ∧ a.toNat ≤ 0xFD ∧ f = .reservedDirect a) := by
  refine ⟨State.dirWrite_error, ?_⟩
  rintro (⟨ha, hout, rfl⟩ | ⟨hlow, hhigh, rfl⟩)
  · exact (State.dir_outsideRam v hout ha).2
  · exact (s.dir_reserved v hlow hhigh).2

/-- The first byte of a return address that the build has no RAM for stops its push. -/
theorem State.pushPc_eq_error :
    s.pushPc = .error f ↔ (s.build.ramSize ≤ (s.sp + 1).toNat ∧ f = .outsideRam (s.sp + 1)) ∨
      ((s.sp + 1).toNat < s.build.ramSize ∧ s.build.ramSize ≤ (s.sp + 2).toNat ∧
        f = .outsideRam (s.sp + 2)) := by
  have hadd : s.sp + 1 + 1 = s.sp + 2 := BitVec.add_assoc s.sp 1 1
  unfold State.pushPc
  split
  · next s1 hfirst =>
    obtain ⟨hin, rfl⟩ := State.pushByte_eq_ok.1 hfirst
    rw [State.pushByte_eq_error]
    simp only [hadd, hin, Nat.not_le.2 hin, false_and, false_or, true_and]
  · next g hfirst =>
    obtain ⟨hout, rfl⟩ := State.pushByte_eq_error.1 hfirst
    simp only [Except.error.injEq, eq_comm, hout, Nat.not_lt.2 hout, true_and, false_and, or_false]

theorem execCall_eq_fault {a : BitVec 10} : execCall a s = .fault f ↔ s.pushPc = .error f := by
  unfold execCall
  split <;> simp [*]

theorem execLcall_eq_fault {a : BitVec 16} (hlong : s.build.hasLong = true) :
    execLcall a s = .fault f ↔ s.pushPc = .error f := by
  unfold execLcall
  rw [if_pos hlong]
  split <;> simp [*]

theorem execRet_eq_fault :
    execRet s = .fault f ↔ (s.build.ramSize ≤ s.sp.toNat ∧ f = .outsideRam s.sp) ∨
      (s.sp.toNat < s.build.ramSize ∧ s.build.ramSize ≤ (s.sp - 1).toNat ∧
        f = .outsideRam (s.sp - 1)) := by
  unfold execRet
  split
  · next hi s1 hfirst =>
    obtain ⟨hin, -, rfl⟩ := State.popByte_eq_ok.1 hfirst
    have hsecond := State.popByte_eq_error (s := s.setSp (s.sp - 1)) (f := f)
    simp only [State.setSp_build, State.setSp_sp] at hsecond
    simp only [hin, Nat.not_le.2 hin, false_and, false_or, true_and, ← hsecond]
    split <;> simp only [*, reduceCtorEq, Host.Outcome.fault.injEq, Except.error.injEq]
  · next g hfirst =>
    obtain ⟨hout, rfl⟩ := State.popByte_eq_error.1 hfirst
    simp only [Host.Outcome.fault.injEq, eq_comm, hout, Nat.not_lt.2 hout, true_and, false_and,
      or_false]

/-! ### Every instruction -/

/-- An instruction that completes and accesses nothing that may be missing. -/
theorem exec_eq_fault_of_next {t : State} (hnext : exec i s = .next t)
    (hstops : ¬ f.Stops s i) : exec i s = .fault f ↔ f.Stops s i := by
  simp [hnext, hstops]

theorem exec_eq_fault_of_reserved (hres : isReserved i = true) :
    exec i s = .fault f ↔ f.Stops s i := by
  obtain ⟨b1, hbytes, hexec⟩ := reservedRowsStop i s hres
  rw [stops_iff_of_reserved hres hbytes, hexec, Host.Outcome.fault.injEq, eq_comm]

/-- An instruction of the build stops the model for the causes of 60_exceptions.md R193 and for no
other. -/
theorem exec_eq_fault (hwf : i.wf s.build.hasLong = true) :
    exec i s = .fault f ↔ f.Stops s i := by
  cases i with
  | movRegInd rd ri =>
    exact finish_eq_fault.trans (moveInto_eq_error.trans
      (srcInd_eq_error.trans (stops_iff_of_one_access rfl rfl rfl).symm))
  | anlRegInd rd ri =>
    exact finish_eq_fault.trans (anlInto_eq_error.trans
      (srcInd_eq_error.trans (stops_iff_of_one_access rfl rfl rfl).symm))
  | addRegInd rd ri | subRegInd rd ri =>
    exact finish_eq_fault.trans (arithInto_eq_error.trans
      (srcInd_eq_error.trans (stops_iff_of_one_access rfl rfl rfl).symm))
  | movRegDir rd a =>
    exact finish_eq_fault.trans (moveInto_eq_error.trans
      (State.dirRead_eq_error.trans (stops_iff_of_direct rfl rfl rfl).symm))
  | anlRegDir rd a =>
    exact finish_eq_fault.trans (anlInto_eq_error.trans
      (State.dirRead_eq_error.trans (stops_iff_of_direct rfl rfl rfl).symm))
  | addRegDir rd a | subRegDir rd a =>
    exact finish_eq_fault.trans (arithInto_eq_error.trans
      (State.dirRead_eq_error.trans (stops_iff_of_direct rfl rfl rfl).symm))
  | movIndReg ri rs =>
    exact finish_eq_fault.trans
      (State.memWrite_eq_error.trans (stops_iff_of_one_access rfl rfl rfl).symm)
  | movDirReg a rs =>
    exact finish_eq_fault.trans
      (State.dirWrite_eq_error.trans (stops_iff_of_direct rfl rfl rfl).symm)
  | push rs =>
    exact finish_eq_fault.trans
      (State.pushByte_eq_error.trans (stops_iff_of_one_access rfl rfl rfl).symm)
  | pop rd =>
    exact finish_eq_fault.trans (moveInto_eq_error.trans
      (State.popByte_eq_error.trans (stops_iff_of_one_access rfl rfl rfl).symm))
  | call a =>
    exact execCall_eq_fault.trans
      (State.pushPc_eq_error.trans (stops_iff_of_two_accesses rfl rfl rfl).symm)
  | lcall a =>
    exact (execLcall_eq_fault hwf).trans
      (State.pushPc_eq_error.trans (stops_iff_of_two_accesses rfl rfl rfl).symm)
  | ret => exact execRet_eq_fault.trans (stops_iff_of_two_accesses rfl rfl rfl).symm
  | ljmp a =>
    exact exec_eq_fault_of_next (execLjmp_eq_next.2 ⟨hwf, rfl⟩) (not_stops_of_no_access rfl rfl rfl)
  | nop | movRegReg | movRegImm | anlRegReg | anlRegImm | addRegReg | addRegImm | subRegReg
  | subRegImm | jmp | jf | jt | inc | dec | srl | sra | rrc | cplReg | clr | setb | cplFlag
  | wait =>
    exact exec_eq_fault_of_next rfl (not_stops_of_no_access rfl rfl rfl)
  | reserved1000 | reserved100110 | reserved101001 | reserved101101 | reserved10111001
  | reserved1011101 | reserved101111 | reserved111011 | reserved111101 | reserved11111 =>
    exact exec_eq_fault_of_reserved rfl

/-- Every arm gives its instruction a meaning. -/
theorem exec_ne_refused (i : Instr) (s : State) (r : Refusal) : exec i s ≠ .refused r := by
  cases i with
  | movRegInd | movRegDir | anlRegInd | anlRegDir | addRegInd | addRegDir | subRegInd | subRegDir
  | movIndReg | movDirReg | push | pop =>
    exact finish_ne_refused _ r
  | nop | movRegReg | movRegImm | anlRegReg | anlRegImm | addRegReg | addRegImm | subRegReg
  | subRegImm | jmp | jf | jt | inc | dec | srl | sra | rrc | cplReg | clr | setb | cplFlag | wait
  | reserved1000 | reserved100110 | reserved101001 | reserved101101 | reserved10111001
  | reserved1011101 | reserved101111 | reserved111011 | reserved111101 | reserved11111 =>
    exact nofun
  | ljmp => simp only [exec, execLjmp]; split <;> exact nofun
  | call => simp only [exec, execCall]; split <;> exact nofun
  | lcall => simp only [exec, execLcall]; split <;> [split <;> exact nofun; exact nofun]
  | ret => simp only [exec, execRet]; split <;> [split <;> exact nofun; exact nofun]

end

/-! ## When a step stops the model -/

section
variable {s : State} {i : Instr} {f : Fault}

/-- The instruction at the PC is one of `decodeOp`'s, by the first byte there. -/
theorem State.Fetches.eq_decodeOp (h : s.Fetches i) :
    ∃ b2 b3, i = decodeOp s.build.hasLong (s.prog.read s.pc.toNat) b2 b3 := by
  obtain ⟨⟨rest, hdecode⟩, -⟩ := h
  rcases decode_three_bytes hdecode with ⟨-, hi⟩ | ⟨-, hi⟩ | ⟨-, hi⟩ <;> exact ⟨_, _, hi⟩

theorem State.Fetches.wf (h : s.Fetches i) : i.wf s.build.hasLong = true := by
  obtain ⟨b2, b3, rfl⟩ := h.eq_decodeOp
  exact wf_decodeOp _ _ _ _

/-- A fetched instruction that is encoded by one byte is encoded by the byte at the PC. -/
theorem State.Fetches.eq_byte_of_encode (h : s.Fetches i) {b1 : Byte} (hbytes : encode i = [b1]) :
    s.pc.toNat < s.build.progSize ∧ b1 = s.prog.read s.pc.toNat := by
  obtain ⟨b2, b3, hi⟩ := h.eq_decodeOp
  obtain ⟨-, hfits⟩ := h
  have hbyte := encode_decodeOp_isPrefix s.build.hasLong (s.prog.read s.pc.toNat) b2 b3
  rw [← hi, hbytes] at hbyte
  exact ⟨hfits 0 (by simp [hbytes]), (List.cons_prefix_cons.1 hbyte).1⟩

/-- What stops the fetched instruction is a cause of R193 in the state before the fetch. -/
theorem State.Fetches.raisedIn_of_stops (h : s.Fetches i) (hstops : f.Stops s i) :
    f.RaisedIn s := by
  cases f with
  | fetchOutsideProgram a => exact hstops.elim
  | reservedOpcode b1 =>
    obtain ⟨hres, hbytes⟩ := hstops
    obtain ⟨hin, rfl⟩ := h.eq_byte_of_encode hbytes
    obtain ⟨b2, b3, rfl⟩ := h.eq_decodeOp
    exact ⟨hin, rfl, isReserved_decodeOp _ _ b2 b3 ▸ hres⟩
  | reservedDirect a => exact ⟨i, h, hstops⟩
  | outsideRam a => exact ⟨i, h, hstops⟩

/-- No access is made to an address that depends on the PC. -/
theorem stops_withPc (a : ProgAddr) : f.Stops { s with pc := a } i ↔ f.Stops s i := by
  have hram : ramAccesses { s with pc := a } i = ramAccesses s i := by cases i <;> rfl
  cases f <;> simp only [Fault.Stops, hram]

theorem State.Fetches.step_eq_exec (h : s.Fetches i) (hwaiting : s.waiting = none) :
    step s = exec i { s with pc := s.pcAt (encode i).length } := by
  obtain ⟨⟨rest, hdecode⟩, hfits⟩ := h
  exact stepRunsDecodedInstruction s i rest hwaiting hdecode hfits

theorem State.Fetches.step_eq_fault (h : s.Fetches i) (hwaiting : s.waiting = none) :
    step s = .fault f ↔ f.Stops s i := by
  rw [h.step_eq_exec hwaiting]
  exact (exec_eq_fault (s := { s with pc := s.pcAt (encode i).length }) h.wf).trans
    (stops_withPc _)

/-- The fetch finds an instruction or a first byte beyond the program memory. -/
theorem State.fetches_or_outside (s : State) :
    (∃ i, s.Fetches i) ∨ ∃ a, (Fault.fetchOutsideProgram a).RaisedIn s := by
  by_cases hout : ∃ k, s.build.progSize ≤ (s.pcAt k).toNat ∧
      k < instrLength s.build.hasLong (s.prog.read s.pc.toNat)
  · obtain ⟨hprog, hk⟩ := Nat.find_spec hout
    refine .inr ⟨_, Nat.find hout, rfl, hprog, fun j hj => ?_, hk⟩
    by_contra hge
    exact Nat.find_min hout hj ⟨Nat.le_of_not_lt hge, hj.trans hk⟩
  · obtain ⟨i, rest, hdecode⟩ : ∃ i rest, decode s.build.hasLong s.codeBytes = .ok (i, rest) := by
      rcases instrLength_cases s.build.hasLong (s.prog.read (s.pcAt 0).toNat) with h | h | h <;>
        simp [State.codeBytes, decode, h]
    have hlen : (encode i).length = instrLength s.build.hasLong (s.prog.read s.pc.toNat) := by
      rcases decode_three_bytes hdecode with ⟨-, rfl⟩ | ⟨-, rfl⟩ | ⟨-, rfl⟩ <;>
        exact length_encode_decodeOp _ _ _ _
    exact .inl ⟨i, ⟨rest, hdecode⟩, fun k hk =>
      Nat.lt_of_not_le fun hge => hout ⟨k, hge, hlen ▸ hk⟩⟩

/-- The first row of R193, by O8 for each of the three bytes. -/
theorem step_of_raisedIn_outside {a : ProgAddr} (hwaiting : s.waiting = none)
    (h : (Fault.fetchOutsideProgram a).RaisedIn s) :
    step s = .fault (.fetchOutsideProgram a) := by
  obtain ⟨k, rfl, hout, hbefore, hk⟩ := h
  obtain ⟨hfirst, hsecond, hthird⟩ := fetchOutsideProgramStops s hwaiting
  have hlen := instrLength_cases s.build.hasLong (s.prog.read s.pc.toNat)
  obtain rfl | rfl | rfl : k = 0 ∨ k = 1 ∨ k = 2 := by omega
  · exact hfirst hout
  · exact hsecond (hbefore 0 (by omega)) hout hk
  · exact hthird (hbefore 0 (by omega)) (hbefore 1 (by omega)) hout (by omega)

/-- Every cause of R193 stops the step: a byte that is missing by O8, a reserved one by O9, and a
missing or reserved address through the fetched instruction. -/
theorem step_of_raisedIn (hwaiting : s.waiting = none) (h : f.RaisedIn s) : step s = .fault f := by
  cases f with
  | fetchOutsideProgram a => exact step_of_raisedIn_outside hwaiting h
  | reservedOpcode b1 =>
    obtain ⟨hin, rfl, hres⟩ := h
    exact reservedFirstByteStops s hwaiting hin hres
  | reservedDirect a | outsideRam a =>
    obtain ⟨i, hi, hstops⟩ := h
    exact (hi.step_eq_fault hwaiting).2 hstops

/-- A step that stops does so for a cause of R193, found by the fetch or in the fetched instruction. -/
theorem raisedIn_of_step (hwaiting : s.waiting = none) (h : step s = .fault f) : f.RaisedIn s := by
  rcases s.fetches_or_outside with ⟨i, hi⟩ | ⟨a, ha⟩
  · exact hi.raisedIn_of_stops ((hi.step_eq_fault hwaiting).1 h)
  · obtain rfl : f = .fetchOutsideProgram a :=
      Host.Outcome.fault.inj (h.symm.trans (step_of_raisedIn_outside hwaiting ha))
    exact ha

end

theorem step_ne_refused (s : State) (r : Refusal) : step s ≠ .refused r := by
  unfold step
  split
  · exact nofun
  · split
    · exact exec_ne_refused _ _ r
    · exact nofun

/-- Settles O10: no arm of `exec` refuses; a held processor does not fault, and for any other the
causes of R193 are sufficient by `step_of_raisedIn` and necessary by `raisedIn_of_step`. -/
theorem faultsHaveTheirCauses : Obligations.FaultsHaveTheirCauses := by
  refine fun s => ⟨step_ne_refused s, fun f => ⟨fun h => ?necessary, fun h => ?sufficient⟩⟩
  case necessary =>
    obtain ⟨hwaiting, -⟩ := step_eq_fault.1 h
    exact ⟨hwaiting, raisedIn_of_step hwaiting h⟩
  case sufficient =>
    obtain ⟨hwaiting, hraised⟩ := h
    exact step_of_raisedIn hwaiting hraised

/-- No byte of the instruction at the PC lies beyond the PC's range (10_state.md R23, R24). -/
theorem State.PcFits.pcAt_lt {s : State} (hpc : s.PcFits) (k : Nat) :
    (s.pcAt k).toNat < 2 ^ s.build.pcWidth.bits := by
  cases k with
  | zero => exact hpc
  | succ k => exact cutPc_lt _ _

/-- Settles O11: by O10 the fault has a cause of R193, and memories of full size have every address
that the PC and a data address reach. -/
theorem fullSizeBuildFaults : Obligations.FullSizeBuildFaults := by
  rintro s f hpc ⟨hprog, hram⟩ hstep
  obtain ⟨-, hcauses⟩ := faultsHaveTheirCauses s
  obtain ⟨-, hraised⟩ := (hcauses f).1 hstep
  cases f with
  | fetchOutsideProgram a =>
    obtain ⟨k, rfl, hout, -⟩ := hraised
    exact absurd (hpc.pcAt_lt k) (Nat.not_lt.2 (hprog ▸ hout))
  | outsideRam a =>
    obtain ⟨i, -, hfirst⟩ := hraised
    have hout : s.build.ramSize ≤ a.toNat := by simpa using List.find?_some hfirst
    have ha := a.isLt
    omega
  | reservedOpcode b1 => exact .inl ⟨b1, rfl⟩
  | reservedDirect a => exact .inr ⟨a, rfl⟩

/-! ## The pins of the output port -/

/-- Of the actions in the table, a write to 0E5h alone reaches the pins of the output port
(60_exceptions.md R199). -/
theorem outputPins_append_actionsOf (trace : List IoEvent) (s : State) {i : Instr}
    (hi : ∀ rs, i ≠ .movDirReg 0xE5 rs) :
    outputPins (trace ++ actionsOf s i) = outputPins trace := by
  unfold actionsOf
  split
  · split_ifs
    · exact outputPins_append_read trace _ _
    · rw [List.append_nil]
  · next a rs _ =>
    split_ifs with hport
    · rw [outputPins_append_write, if_neg]
      intro hfive
      have hport5 : (a.toNat - 0xE0) % 16 = 5 := by
        simpa using congrArg BitVec.toNat hfive
      have haddr : a.toNat = 0xE5 := by omega
      exact hi rs (congrArg (Instr.movDirReg · rs) (BitVec.eq_of_toNat_eq haddr))
    · rw [List.append_nil]
  · rw [List.append_nil]

/-- Settles O23: 0E5h is port 5 by O22, the actions of the other instructions are those of O56, and a
sampling makes none. -/
theorem outputPortShowsLastWrite : Obligations.OutputPortShowsLastWrite := by
  refine ⟨rfl, fun rs s => ?written, fun i s t hi hexec => ?kept, fun s t p hheld hstep => ?held⟩
  case written =>
    obtain ⟨-, hport, -⟩ := movDirectWrites 0xE5 rs s
    exact ⟨_, hport (by decide) (by decide), outputPins_append_write s.trace 5 (s.reg rs)⟩
  case kept =>
    rw [actionsOfEachInstruction i s t hexec]
    exact outputPins_append_actionsOf s.trace s hi
  case held =>
    obtain rfl : s.sampleWait p = t :=
      Host.Outcome.next.inj ((step_of_waiting hheld).symm.trans hstep)
    rfl

end Sys2Proof.Machine
